-- ==== Sys2Proof/Word.lean ====
section
/-! DEFINITION. Word.lean: the sizes of the hardware as one record (00_scope.md R8) and the value types of CHIP8-CORE that are made of
them and of the instruction word (00_scope.md R10, 30_encoding.md R91). Every value is unsigned.

A type takes a size from the record as `reduceProj% (delta% sizes).memSize`: that is the number the record gives, put in while the
term is elaborated, so that types hold numerals. -/

namespace Sys2Proof

/-- The parameters of 00_scope.md R8 that give the block its shape. -/
structure Sizes where
  /-- `MEM_SIZE`: bytes of memory. -/
  memSize : Nat
  /-- `PROG_BASE`: load address of the program image and reset value of PC. -/
  progBase : Nat
  /-- `MAX_IMAGE`: the greatest number of image bytes loaded. -/
  maxImage : Nat
  /-- `NUM_REGS`: general registers. -/
  numRegs : Nat
  /-- `REG_WIDTH`: bits per general register. -/
  regWidth : Nat
  /-- `STACK_DEPTH`: return-address slots. -/
  stackDepth : Nat
  /-- `TIMER_WIDTH`: bits per timer. -/
  timerWidth : Nat
  /-- `DISPLAY_W`: framebuffer width in pixels (R9; 92_eei_decisions.md D21). -/
  displayW : Nat
  /-- `DISPLAY_H`: framebuffer height in pixels. -/
  displayH : Nat
  /-- `NUM_KEYS`: logical keys. -/
  numKeys : Nat
  /-- `GLYPH_BYTES`: bytes per font glyph. -/
  glyphBytes : Nat
  /-- `ADDR_WIDTH`: physical width of PC, I and each stack slot (92_eei_decisions.md D3; log 12). -/
  addrWidth : Nat
  deriving DecidableEq, Repr

/-- The values of 00_scope.md R8. -/
def sizes : Sizes where
  memSize := 4096
  progBase := 0x200
  maxImage := 3584
  numRegs := 16
  regWidth := 8
  stackDepth := 16
  timerWidth := 8
  displayW := 64
  displayH := 32
  numKeys := 16
  glyphBytes := 5
  addrWidth := 16

/-- A byte of memory, an `nn` immediate: 8 bits (30_encoding.md R91). -/
abbrev Byte := BitVec 8

/-- An instruction word, and the datum `FAULT_INFO`: 16 bits (30_encoding.md R90, 10_state.md R31). -/
abbrev Word := BitVec 16

/-- The 12-bit immediate address `nnn` (30_encoding.md R91). -/
abbrev Addr := BitVec 12

/-- A general register's number: a 4-bit field of the word (10_state.md R21). -/
abbrev Reg := BitVec 4

/-- A 4-bit field of an instruction word (30_encoding.md R91). -/
abbrev Nibble := BitVec 4

/-- Register 15, the flag register VF (10_state.md R22, R40). -/
abbrev VF : Reg := 15#4

/-- A general register's value. -/
abbrev RegVal := BitVec (reduceProj% (delta% sizes).regWidth)

/-- A timer's value. -/
abbrev TimerVal := BitVec (reduceProj% (delta% sizes).timerWidth)

/-- The value of PC, I or a stack slot. -/
abbrev Address := BitVec (reduceProj% (delta% sizes).addrWidth)

/-- The levels of all keys (10_state.md R32). -/
abbrev Keys := BitVec (reduceProj% (delta% sizes).numKeys)

/-- A display row. -/
abbrev Row := Fin (reduceProj% (delta% sizes).displayH)

/-- A display column. -/
abbrev Col := Fin (reduceProj% (delta% sizes).displayW)

end Sys2Proof
end

