-- ==== Sys2Proof/Syntax.lean ====
section
/-! DEFINITION. Syntax.lean: the 35 instructions of 30_encoding.md R95, one constructor per row of spec/opcode_table.json,
in the table's order. The comment at each constructor is the row's pattern. -/

namespace Sys2Proof

/-- The instruction set, with the operand fields of 30_encoding.md R91 that each format of R92 carries. -/
inductive Instr where
  | cls                                   -- 00E0
  | ret                                   -- 00EE
  | jp (nnn : Addr)                       -- 1nnn
  | call (nnn : Addr)                     -- 2nnn
  | seImm (x : Reg) (nn : Byte)           -- 3xnn
  | sneImm (x : Reg) (nn : Byte)          -- 4xnn
  | seReg (x y : Reg)                     -- 5xy0
  | ldImm (x : Reg) (nn : Byte)           -- 6xnn
  | addImm (x : Reg) (nn : Byte)          -- 7xnn
  | ldReg (x y : Reg)                     -- 8xy0
  | or (x y : Reg)                        -- 8xy1
  | and (x y : Reg)                       -- 8xy2
  | xor (x y : Reg)                       -- 8xy3
  | addReg (x y : Reg)                    -- 8xy4
  | sub (x y : Reg)                       -- 8xy5
  | shr (x y : Reg)                       -- 8xy6
  | subn (x y : Reg)                      -- 8xy7
  | shl (x y : Reg)                       -- 8xyE
  | sneReg (x y : Reg)                    -- 9xy0
  | ldI (nnn : Addr)                      -- Annn
  | jpV0 (nnn : Addr)                     -- Bnnn
  | rnd (x : Reg) (nn : Byte)             -- Cxnn
  | drw (x y : Reg) (n : Nibble)          -- Dxyn
  | skp (x : Reg)                         -- Ex9E
  | sknp (x : Reg)                        -- ExA1
  | ldVxDt (x : Reg)                      -- Fx07
  | ldVxK (x : Reg)                       -- Fx0A
  | ldDtVx (x : Reg)                      -- Fx15
  | ldStVx (x : Reg)                      -- Fx18
  | addI (x : Reg)                        -- Fx1E
  | ldF (x : Reg)                         -- Fx29
  | ldB (x : Reg)                         -- Fx33
  | stRegs (x : Reg)                      -- Fx55
  | ldRegs (x : Reg)                      -- Fx65
  | sys (nnn : Addr)                      -- 0nnn
  deriving DecidableEq, Repr

end Sys2Proof
end

