-- ==== Sys2Proof/WellFormed.lean ====
section
/-! DEFINITION. WellFormed.lean: which terms of `Instr` stand for an instruction word. Every field has exactly its width in
the word, and every value of every field is legal (30_encoding.md R93), so the one thing left to check is the priority of R94. -/

namespace Sys2Proof

/-- `SYS nnn` is a word with first nibble 0 that is neither 0x00E0 (CLS) nor 0x00EE (RET) (30_encoding.md R94). -/
def Instr.wellFormed : Instr → Bool
  | .sys nnn => nnn != 0x0E0#12 && nnn != 0x0EE#12
  | _ => true

/-- The same as a proposition. -/
abbrev Instr.WellFormed (i : Instr) : Prop := i.wellFormed = true

end Sys2Proof
end

