-- ==== Sys2Proof/Config.lean ====
section
/-! DEFINITION. Config.lean: the record of all the parameters of 00_scope.md R8, and the free values. The sizes are the record
`Sizes` of Word.lean, which the types of State are made of; the open points are added here. The operations that read an open
point take the record as an argument; the values this hardware has are `Machine.params` (Machine/Params.lean). -/

namespace Sys2Proof

/-- `VF_WRITE_PRIORITY` (41_alu.md R150): which write survives when a flag-writing instruction has x = 15. -/
inductive VfPriority where
  | flag
  | result
  deriving DecidableEq, Repr

/-- `KEY_INDEX_POLICY` (44_keypad_timers.md R221): what a key index above 15 does. -/
inductive KeyIndexPolicy where
  | fault
  | mask
  deriving DecidableEq, Repr

/-- `KEYWAIT_PICK` (44_keypad_timers.md R224): which key `Fx0A` reports when several are down. -/
inductive KeywaitPick where
  | lowest
  | any
  deriving DecidableEq, Repr

/-- The parameters of 00_scope.md R8, row by row: the sizes, then the points the spec leaves open or names a default for. -/
structure Params extends Sizes where
  /-- `FONT_BASE`: the address of glyph 0. -/
  fontBase : Nat
  /-- `FONT`: the glyph bytes, glyph by glyph (70_reset_and_hazards.md R282). -/
  font : List Byte
  /-- `FX1E_LIMIT`: `Fx1E` sets VF when the unwrapped sum is at least this (42_index_memory.md R181). -/
  fx1eLimit : Nat
  /-- `VF_WRITE_PRIORITY`. -/
  vfWritePriority : VfPriority
  /-- `KEY_INDEX_POLICY`. -/
  keyIndexPolicy : KeyIndexPolicy
  /-- `KEYWAIT_PICK`. -/
  keywaitPick : KeywaitPick
  /-- `RESET_V`: the value of V0..VF after reset. -/
  resetV : RegVal
  /-- `RESET_I`: the value of I after reset. -/
  resetI : Address
  /-- `TICK_HZ`: a label; no rule depends on it (R8, 70_reset_and_hazards.md R285; log 22). -/
  tickHz : Nat
  deriving DecidableEq, Repr

namespace Config

/-- FREE VALUE: the host's random source, draw by draw (41_alu.md R162; 93_implementation_defined.md U1). No body: nothing is
known of any value. DESIGN CHOICE, log 3. -/
opaque rnd : Nat → BitVec 8

/-- FREE VALUE: which of the pressed keys is reported under `KEYWAIT_PICK = any` (93_implementation_defined.md U5). Log 9. -/
opaque keyChoice : Nat → BitVec 8

end Config

end Sys2Proof
end

