-- ==== Sys2Proof/Machine/Params.lean ====
section
/-! DEFINITION. Machine/Params.lean: the values this model gives the parameters of 00_scope.md R8 (the defaults of the spec) and
what memory reads as where nothing has been written. -/

namespace Sys2Proof.Machine

/-- `FONT`, the table of 70_reset_and_hazards.md R282. PRESUMED: the spec takes it from general knowledge (log 5). -/
def fontTable : List Byte :=
  [0xF0, 0x90, 0x90, 0x90, 0xF0] ++ [0x20, 0x60, 0x20, 0x20, 0x70] ++
  [0xF0, 0x10, 0xF0, 0x80, 0xF0] ++ [0xF0, 0x10, 0xF0, 0x10, 0xF0] ++
  [0x90, 0x90, 0xF0, 0x10, 0x10] ++ [0xF0, 0x80, 0xF0, 0x10, 0xF0] ++
  [0xF0, 0x80, 0xF0, 0x90, 0xF0] ++ [0xF0, 0x10, 0x20, 0x40, 0x40] ++
  [0xF0, 0x90, 0xF0, 0x90, 0xF0] ++ [0xF0, 0x90, 0xF0, 0x10, 0xF0] ++
  [0xF0, 0x90, 0xF0, 0x90, 0x90] ++ [0xE0, 0x90, 0xE0, 0x90, 0xE0] ++
  [0xF0, 0x80, 0x80, 0x80, 0xF0] ++ [0xE0, 0x90, 0x90, 0x90, 0xE0] ++
  [0xF0, 0x80, 0xF0, 0x80, 0xF0] ++ [0xF0, 0x80, 0xF0, 0x80, 0x80]

/-- The values of 00_scope.md R8: the sizes, and the defaults of the open points (92_eei_decisions.md D2, D4, D6, D8, D9, D14; log 4 to log 9). -/
def params : Params where
  toSizes := sizes
  fontBase := 0x000
  font := fontTable
  fx1eLimit := 0x1000
  vfWritePriority := .flag
  keyIndexPolicy := .fault
  keywaitPick := .lowest
  resetV := 0
  resetI := 0
  tickHz := 60

/-- What the byte at `a` is after `Reset` with an empty image: the font, and 0 elsewhere (10_state.md R35). This is what an
address that the memory list does not list reads as (log 18). -/
def resetByte (p : Params) (a : Nat) : Byte :=
  if p.fontBase ≤ a then p.font.getD (a - p.fontBase) 0 else 0

end Sys2Proof.Machine
end

