-- ==== Sys2Proof/Machine/State.lean ====
section
/-! DEFINITION. Machine/State.lean: the state of CHIP8-CORE, the record of 10_state.md R20 as plain data, with the host's side
(10_state.md R32) as three fields of the model's own; the stop reasons; memory's canonical form; the state after reset. -/

namespace Sys2Proof.Machine

/-- `MODE` (10_state.md R30). -/
inductive Mode where
  /-- The next `Step` fetches and executes. -/
  | run
  /-- An `Fx0A` is pending. -/
  | waitKey
  /-- A fault has been raised. -/
  | halt
  deriving DecidableEq, Repr

/-- `FAULT_CAUSE` (10_state.md R31), the classes of 60_exceptions.md R240. -/
inductive FaultCause where
  | none
  | unsupportedInstruction
  | stackOverflow
  | stackUnderflow
  | memoryRange
  | keyIndexRange
  deriving DecidableEq, Repr

/-- A transition the host raises (00_scope.md R12, 10_state.md R32). -/
inductive HostEvent where
  /-- `Step(keys, rnd)` with these key levels; the random value is a free value. -/
  | step (keys : Keys)
  /-- `Tick` (60_exceptions.md R251). -/
  | tick
  /-- `Reset(image)` (70_reset_and_hazards.md R280). -/
  | reset (image : List Byte)
  deriving DecidableEq, Repr

/-- `M` (10_state.md R28): the bytes that differ from `resetByte`, by rising address (log 18). -/
abbrev Memory := List Host.Cell

/-- The canonical form of `M`: addresses strictly rising, each below `MEM_SIZE`, and no entry equal to what an unlisted address
reads as. -/
abbrev Memory.wf (m : Memory) : Prop :=
  m.Pairwise (fun c d => c.1 < d.1) ∧ ∀ c ∈ m, c.1 < (reduceProj% (delta% sizes).memSize) ∧ c.2 ≠ resetByte params c.1

/-- `FB` (10_state.md R29, 43_display.md R200): `DISPLAY_H` rows of `DISPLAY_W` pixels, true = foreground. -/
abbrev FrameBuffer := Vector (Vector Bool (reduceProj% (delta% sizes).displayW)) (reduceProj% (delta% sizes).displayH)

/-- A framebuffer with every pixel background. -/
abbrev FrameBuffer.blank : FrameBuffer := Vector.replicate _ (Vector.replicate _ false)

/-- The machine: the fourteen entries of 10_state.md R20, then the model's own three. -/
structure State where
  /-- `V[0..15]` (R21). -/
  v : Vector RegVal (reduceProj% (delta% sizes).numRegs)
  /-- `I` (R24). -/
  i : Address
  /-- `PC` (R25). -/
  pc : Address
  /-- `STACK[0..15]` (R26). -/
  stack : Vector Address (reduceProj% (delta% sizes).stackDepth)
  /-- `SP`, the number of occupied slots, 0 to `STACK_DEPTH` (R26; log 17). -/
  sp : Fin ((reduceProj% (delta% sizes).stackDepth) + 1)
  /-- `DT` (R27). -/
  dt : TimerVal
  /-- `ST` (R27). -/
  st : TimerVal
  /-- `M` (R28). -/
  mem : Memory
  /-- `FB` (R29). -/
  fb : FrameBuffer
  /-- `MODE` (R30). -/
  mode : Mode
  /-- `WAIT_REG` (R30). -/
  waitReg : Reg
  /-- `FAULT_CAUSE` (R31). -/
  faultCause : FaultCause
  /-- `FAULT_INFO` (R31). -/
  faultInfo : Word
  /-- `FAULT_PC` (R31). -/
  faultPc : Address
  /-- The model's own: the levels of the key inputs at this step (R32; log 2). -/
  keys : Keys
  /-- The model's own: the events the host raises next, oldest first (R32; log 1). -/
  script : List HostEvent
  /-- The model's own: the index of the next free value (log 3). -/
  draws : Nat
  deriving DecidableEq, Repr

/-- Why the machine could stop OUTSIDE the spec's own faults. Every fault of the spec is a state, `MODE = HALT`
(60_exceptions.md R247), so a step never ends in one of these (log 10). -/
inductive Fault where
  /-- Raised by no definition of the model: the spec defines every case. Safe: a stop where the hardware goes on would prove
  nothing false. -/
  | outsideTheSpec
  deriving DecidableEq, Repr

/-- Why an instruction could be given no meaning. -/
inductive Refusal where
  /-- Raised by `exec` alone, for an instruction that has no meaning yet; at present by none. Safe: nothing is claimed of the
  instruction. -/
  | notModelled (mnemonic : String)
  deriving DecidableEq, Repr

/-- What a step and a meaning answer. -/
abbrev Result := Host.Outcome State Fault Refusal

/-- The machine after `Reset` with an empty image (10_state.md R35), the host having raised nothing more and no key down. V,
I, STACK and WAIT_REG are 0 by the spec's decision D2 (log 4); `keys`, `script` and `draws` are DESIGN CHOICE (log 1 to 3). -/
def State.reset : State where
  v := Vector.replicate _ params.resetV
  i := params.resetI
  pc := BitVec.ofNat _ params.progBase
  stack := Vector.replicate _ 0
  sp := 0
  dt := 0
  st := 0
  mem := []
  fb := FrameBuffer.blank
  mode := .run
  waitReg := 0
  faultCause := .none
  faultInfo := 0
  faultPc := 0
  keys := 0
  script := []
  draws := 0

end Sys2Proof.Machine
end

