-- ==== Sys2Proof/Machine/Ops.lean ====
section
/-! DEFINITION. Machine/Ops.lean: the named operations on registers, PC, stack, memory and framebuffer; fault entry
(60_exceptions.md R247) and, beside it, the one way out of a fault, `Reset` (70_reset_and_hazards.md R280); `Tick`. -/

namespace Sys2Proof.Machine

/-! ## General registers (10_state.md R21) -/

/-- `V[x]`. -/
def State.reg (s : State) (x : Reg) : RegVal := s.v[x.toNat]'(by have := x.isLt; omega)

/-- `V[x] <- b`. -/
def State.setReg (s : State) (x : Reg) (b : RegVal) : State :=
  { s with v := s.v.set x.toNat b (by have := x.isLt; omega) }

/-! ## Special registers (10_state.md R24, R25, R27, R30) -/

/-- `I <- a`. -/
def State.setI (s : State) (a : Address) : State := { s with i := a }

/-- `pc <- a`. -/
def State.setPc (s : State) (a : Address) : State := { s with pc := a }

/-- `DT <- b`. -/
def State.setDt (s : State) (b : TimerVal) : State := { s with dt := b }

/-- `ST <- b`. -/
def State.setSt (s : State) (b : TimerVal) : State := { s with st := b }

/-- `MODE <- m`. -/
def State.setMode (s : State) (m : Mode) : State := { s with mode := m }

/-- `WAIT_REG <- x`. -/
def State.setWaitReg (s : State) (x : Reg) : State := { s with waitReg := x }

/-- `M <- m`, the whole memory. -/
def State.setMem (s : State) (m : Memory) : State := { s with mem := m }

/-- `FB <- f`, the whole framebuffer. -/
def State.setFb (s : State) (f : FrameBuffer) : State := { s with fb := f }

/-- One free value has been used (log 3). -/
def State.countDraw (s : State) : State := { s with draws := s.draws + 1 }

/-- The host presents the key levels `k` (10_state.md R32; log 2). -/
def State.setKeys (s : State) (k : Keys) : State := { s with keys := k }

/-- The host's coming events become `l` (log 1). -/
def State.setScript (s : State) (l : List HostEvent) : State := { s with script := l }

/-! ## PC effects (40_cycle_control.md R122) -/

/-- `Advance`: PC + 2. -/
def State.advance (s : State) : State := s.setPc (s.pc + BitVec.ofNat _ 2)

/-- `Skip`: PC + 4. -/
def State.skip (s : State) : State := s.setPc (s.pc + BitVec.ofNat _ 4)

/-- `if c then Skip else Advance`. -/
def State.skipIf (s : State) (c : Bool) : State := if c then s.skip else s.advance

/-- `JumpTo(a)`. -/
def State.jumpTo (s : State) (a : Address) : State := s.setPc a

/-! ## The return stack (10_state.md R26) -/

/-- `STACK[j]` for a slot that exists; 0 where there is none, which no instruction reads. -/
def State.slot (s : State) (j : Nat) : Address :=
  if h : j < (reduceProj% (delta% sizes).stackDepth) then s.stack[j] else 0

/-- `STACK[SP] <- a; SP <- SP + 1`, under the rule's own premise `SP < STACK_DEPTH`. -/
def State.push (s : State) (a : Address) (h : s.sp.val < (reduceProj% (delta% sizes).stackDepth)) : State :=
  { s with stack := s.stack.set s.sp.val a h, sp := ⟨s.sp.val + 1, by omega⟩ }

/-- `SP <- SP - 1`; the slot is not cleared. -/
def State.pop (s : State) : State := { s with sp := ⟨s.sp.val - 1, by omega⟩ }

/-! ## Memory (20_memory.md R60, R61) -/

/-- `M[a]`: the listed byte, else what an unlisted address reads as. -/
def Memory.read : Memory → Nat → Byte
  | [], a => resetByte params a
  | c :: rest, a => if c.1 = a then c.2 else Memory.read rest a

/-- `m` with nothing listed at `a`. -/
def Memory.erase (m : Memory) (a : Nat) : Memory := m.filter (fun c => c.1 != a)

/-- `m` with the entry `(a, b)` put before the first greater address. -/
def Memory.insert (a : Nat) (b : Byte) : Memory → Memory
  | [] => [(a, b)]
  | c :: rest => if a < c.1 then (a, b) :: c :: rest else c :: Memory.insert a b rest

/-- `M[a] <- b`, in canonical form: the byte an unlisted address reads as is not listed. -/
def Memory.write (m : Memory) (a : Nat) (b : Byte) : Memory :=
  if b = resetByte params a then Memory.erase m a else Memory.insert a b (Memory.erase m a)

/-- The bytes `bs` written at `a`, `a + 1`, … in ascending order. -/
def Memory.writeBytes (m : Memory) (a : Nat) : List Byte → Memory
  | [] => m
  | b :: rest => Memory.writeBytes (Memory.write m a b) (a + 1) rest

/-- `M[a]`, with no check. -/
def State.byte (s : State) (a : Nat) : Byte := Memory.read s.mem a

/-- The bytes `bs` stored from address `a` up. -/
def State.storeBytes (s : State) (a : Nat) (bs : List Byte) : State := s.setMem (Memory.writeBytes s.mem a bs)

/-- `max(a, 0x1000)`: the lowest of the addresses `a`, `a + 1`, … that is outside `M` (20_memory.md R61). -/
def firstOutside (p : Params) (a : Nat) : Nat := max a p.memSize

/-! ## The framebuffer (43_display.md R200, R204) -/

/-- `get_pixel(c, r)`. -/
def FrameBuffer.get (f : FrameBuffer) (r : Row) (c : Col) : Bool := (f[r.val])[c.val]

/-- `set_pixel(c, r, b)`. -/
def FrameBuffer.put (f : FrameBuffer) (r : Row) (c : Col) (b : Bool) : FrameBuffer :=
  f.set r.val ((f[r.val]).set c.val b)

/-- `FB[r][c]`. -/
def State.pixel (s : State) (r : Row) (c : Col) : Bool := FrameBuffer.get s.fb r c

/-! ## Fault entry, and the way out -/

/-- The code of `FAULT_CAUSE` (60_exceptions.md R240). -/
def FaultCause.code : FaultCause → BitVec 3
  | .none => 0
  | .unsupportedInstruction => 1
  | .stackOverflow => 2
  | .stackUnderflow => 3
  | .memoryRange => 4
  | .keyIndexRange => 5

/-- `raise F(info)`: the four writes of 60_exceptions.md R247 and nothing else. -/
def State.raise (s : State) (cause : FaultCause) (info : Word) : State :=
  { s with mode := .halt, faultCause := cause, faultInfo := info, faultPc := s.pc }

/-- `raise MemoryRange` for an access that starts at `base` (20_memory.md R61, 60_exceptions.md R243). -/
def State.raiseRange (s : State) (p : Params) (base : Nat) : State :=
  s.raise .memoryRange (BitVec.ofNat _ (firstOutside p base))

/-- An access to the `count` bytes from `base` up: all addresses are checked before anything changes (20_memory.md R61). If
one is outside `M` the instruction only raises `MemoryRange`; else it ends in `body`. -/
def State.checked (s : State) (p : Params) (base count : Nat) (body : State) : State :=
  if 0 < count ∧ p.memSize ≤ base + count - 1 then s.raiseRange p base else body

/-- The memory that `Reset(image)` leaves (70_reset_and_hazards.md R280, R281): the reset contents and the first `MAX_IMAGE`
bytes of the image from `PROG_BASE` up. -/
def imageMemory (p : Params) (image : List Byte) : Memory :=
  Memory.writeBytes [] p.progBase (image.take p.maxImage)

/-- `Reset(image)` (70_reset_and_hazards.md R280): it discards all state of the block. The host's own side (key levels, coming
events, free values used) is not the block's and stays (log 21). -/
def State.resetWith (s : State) (image : List Byte) : State :=
  { State.reset with mem := imageMemory params image, keys := s.keys, script := s.script, draws := s.draws }

/-! ## Tick (60_exceptions.md R251) -/

/-- A timer counted down by one, never below zero. -/
def countDown (b : TimerVal) : TimerVal := if b = 0 then b else b - 1

/-- `Tick`: both timers count down, but for `HALT`, in which nothing changes. -/
def State.tick (s : State) : State :=
  match s.mode with
  | .halt => s
  | _ => (s.setDt (countDown s.dt)).setSt (countDown s.st)

end Sys2Proof.Machine
end

