-- ==== Sys2Proof/Machine/Flags.lean ====
section
/-! DEFINITION. Machine/Flags.lean: the flag computations of 10_state.md R40 and the two-writes rule of 41_alu.md R150. The one
flag is the register VF, which a flag-writing instruction sets to 0 or 1. -/

namespace Sys2Proof.Machine

/-- The value VF takes: 1 or 0. -/
def flagByte (c : Bool) : RegVal := if c then 1 else 0

/-- `8xy4`: the true sum exceeds 255 (41_alu.md R157). -/
def carryOut (a b : RegVal) : Bool := decide (255 < a.toNat + b.toNat)

/-- `8xy5`, `8xy7`: the minuend is strictly greater (41_alu.md R158, R160). -/
def strictlyGreater (a b : RegVal) : Bool := decide (b.toNat < a.toNat)

/-- `8xy6`: the bit shifted out to the right (41_alu.md R159). -/
def lowBit (a : RegVal) : Bool := a.getLsbD 0

/-- `8xyE`: the bit shifted out to the left (41_alu.md R161). -/
def highBit (a : RegVal) : Bool := a.getLsbD 7

/-- `Fx1E`: the unwrapped sum reaches `FX1E_LIMIT` (42_index_memory.md R181). -/
def indexOverflow (p : Params) (i : Address) (b : RegVal) : Bool := decide (p.fx1eLimit ≤ i.toNat + b.toNat)

/-- `VF <- c`. -/
def State.setFlag (s : State) (c : Bool) : State := s.setReg VF (flagByte c)

/-- A result to `V[x]` and a flag to VF, both computed from the state before; with x = 15 `VF_WRITE_PRIORITY` says which one
survives (41_alu.md R150). -/
def State.setResultFlag (s : State) (p : Params) (x : Reg) (result : RegVal) (c : Bool) : State :=
  match p.vfWritePriority with
  | .flag => (s.setReg x result).setFlag c
  | .result => (s.setFlag c).setReg x result

end Sys2Proof.Machine
end

