-- ==== Sys2Proof/Machine/Operands.lean ====
section
/-! DEFINITION. Machine/Operands.lean: every operand form of 30_encoding.md R93 and 42_index_memory.md R186: zero-extended
immediates and register values, the bytes at I and up, the block V0..Vx, decimal digits, glyph addresses, key indices, the
random draw. -/

namespace Sys2Proof.Machine

/-- `zext_16(nnn)`. -/
def addrWord (nnn : Addr) : Address := nnn.setWidth _

/-- `zext_16(b)`. -/
def byteWord (b : Byte) : Word := b.setWidth 16

/-- `nnn + zext_16(V[0])`, not reduced to 12 bits (40_cycle_control.md R132). -/
def State.v0Target (s : State) (nnn : Addr) : Address := addrWord nnn + byteWord (s.reg 0)

/-- `I + k` as an unbounded number (42_index_memory.md R186). -/
def State.effAddr (s : State) (k : Nat) : Nat := s.i.toNat + k

/-- The byte at `I + k`. -/
def State.byteAtI (s : State) (k : Nat) : Byte := s.byte (s.effAddr k)

/-- The number of registers in the block V0..Vx, both ends included (42_index_memory.md R184). -/
def blockSize (x : Reg) : Nat := x.toNat + 1

/-- The values of V0..Vx in ascending order. -/
def State.block (s : State) (x : Reg) : List RegVal :=
  (List.range (blockSize x)).map (fun k => s.reg (BitVec.ofNat 4 k))

/-- The registers of the block from number `k` up, `count` of them, loaded from `I + k` and up (42_index_memory.md R185). -/
def State.loadBlock (s : State) : (k count : Nat) → State
  | _, 0 => s
  | k, count + 1 => State.loadBlock (s.setReg (BitVec.ofNat 4 k) (s.byteAtI k)) (k + 1) count

/-- Hundreds, tens and ones of a byte (42_index_memory.md R183). -/
def decimalDigits (b : Byte) : List Byte :=
  [BitVec.ofNat 8 (b.toNat / 100), BitVec.ofNat 8 (b.toNat / 10 % 10), BitVec.ofNat 8 (b.toNat % 10)]

/-- `FONT_BASE + GLYPH_BYTES * b[3:0]` (42_index_memory.md R182). -/
def glyphAddr (p : Params) (b : RegVal) : Address :=
  BitVec.ofNat _ (p.fontBase + p.glyphBytes * (b.extractLsb' 0 4).toNat)

/-! ## Keys (44_keypad_timers.md R220 to R224) -/

/-- `keys[k]`: whether logical key `k` is down at this step. -/
def State.keyDown (s : State) (k : Nibble) : Bool := s.keys.getLsbD k.toNat

/-- The key index that a byte names; none where `KEY_INDEX_POLICY = fault` and the byte is not below `NUM_KEYS` (44_keypad_timers.md R221). -/
def keyIndex (p : Params) (b : RegVal) : Option Nibble :=
  match p.keyIndexPolicy with
  | .fault => if p.numKeys ≤ b.toNat then none else some (b.extractLsb' 0 4)
  | .mask => some (b.extractLsb' 0 4)

/-- The indices of the keys that are down, ascending. -/
def pressedKeys (p : Params) (keys : Keys) : List Nat := (List.range p.numKeys).filter (fun k => keys.getLsbD k)

/-- `pick(keys)` for `keys` not 0 (44_keypad_timers.md R224); under `KEYWAIT_PICK = any` a free choice among them. -/
def State.pickKey (s : State) (p : Params) : RegVal :=
  match p.keywaitPick with
  | .lowest => BitVec.ofNat _ ((pressedKeys p s.keys).headD 0)
  | .any =>
    BitVec.ofNat _ ((pressedKeys p s.keys).getD ((Config.keyChoice s.draws).toNat % (pressedKeys p s.keys).length) 0)

/-- The free value that `pickKey` used, if it used one, is used up. -/
def State.afterPick (s : State) (p : Params) : State :=
  match p.keywaitPick with
  | .lowest => s
  | .any => s.countDraw

/-- A key is down: `V[x] <- pick(keys)`, then `Advance` (44_keypad_timers.md R223, R224). -/
def State.takeKey (s : State) (p : Params) (x : Reg) : State := ((s.setReg x (s.pickKey p)).afterPick p).advance

/-! ## The random source (41_alu.md R162) -/

/-- `draw(0, nn)`: any value from 0 to `nn`, both included; which one is a free value (log 3). -/
def State.draw (s : State) (nn : Byte) : Byte := BitVec.ofNat 8 ((Config.rnd s.draws).toNat % (nn.toNat + 1))

end Sys2Proof.Machine
end

