-- ==== Sys2Proof/Machine/Alu.lean ====
section
/-! DEFINITION. Machine/Alu.lean: the register and ALU family (41_alu.md R150 to R164). None can fault and every one ends with
`Advance`. -/

namespace Sys2Proof.Machine

/-- `6xnn` (R151). -/
def execLdImm (x : Reg) (nn : Byte) (s : State) : Result := .next (s.setReg x nn).advance

/-- `7xnn` (R152): VF is not written unless x = 15 (R164). -/
def execAddImm (x : Reg) (nn : Byte) (s : State) : Result := .next (s.setReg x (s.reg x + nn)).advance

/-- `8xy0` (R153). -/
def execLdReg (x y : Reg) (s : State) : Result := .next (s.setReg x (s.reg y)).advance

/-- `8xy1` (R154): VF is not written (R164). -/
def execOr (x y : Reg) (s : State) : Result := .next (s.setReg x (s.reg x ||| s.reg y)).advance

/-- `8xy2` (R155). -/
def execAnd (x y : Reg) (s : State) : Result := .next (s.setReg x (s.reg x &&& s.reg y)).advance

/-- `8xy3` (R156). -/
def execXor (x y : Reg) (s : State) : Result := .next (s.setReg x (s.reg x ^^^ s.reg y)).advance

/-- `8xy4` (R157). -/
def execAddReg (x y : Reg) (s : State) : Result :=
  .next (s.setResultFlag params x (s.reg x + s.reg y) (carryOut (s.reg x) (s.reg y))).advance

/-- `8xy5` (R158). -/
def execSub (x y : Reg) (s : State) : Result :=
  .next (s.setResultFlag params x (s.reg x - s.reg y) (strictlyGreater (s.reg x) (s.reg y))).advance

/-- `8xy6` (R159): in place; the y field is ignored. -/
def execShr (x : Reg) (s : State) : Result :=
  .next (s.setResultFlag params x (s.reg x >>> 1) (lowBit (s.reg x))).advance

/-- `8xy7` (R160). -/
def execSubn (x y : Reg) (s : State) : Result :=
  .next (s.setResultFlag params x (s.reg y - s.reg x) (strictlyGreater (s.reg y) (s.reg x))).advance

/-- `8xyE` (R161): in place; the y field is ignored. -/
def execShl (x : Reg) (s : State) : Result :=
  .next (s.setResultFlag params x (s.reg x <<< 1) (highBit (s.reg x))).advance

/-- `Cxnn` (R162): a draw in 0..nn, and one free value is used up. -/
def execRnd (x : Reg) (nn : Byte) (s : State) : Result :=
  .next ((s.setReg x (s.draw nn)).countDraw).advance

end Sys2Proof.Machine
end

