-- ==== Sys2Proof/Machine/Control.lean ====
section
/-! DEFINITION. Machine/Control.lean: the control transfer family (40_cycle_control.md R124 to R132). -/

namespace Sys2Proof.Machine

/-- `0nnn` (R124): always raises `UnsupportedInstruction` with the whole word. -/
def execSys (nnn : Addr) (s : State) : Result :=
  .next (s.raise .unsupportedInstruction (encode (.sys nnn)))

/-- `00EE` (R125): `StackUnderflow` when the stack is empty, else to the popped address. -/
def execRet (s : State) : Result :=
  if s.sp.val = 0 then .next (s.raise .stackUnderflow (encode .ret))
  else .next (s.pop.jumpTo (s.slot (s.sp.val - 1)))

/-- `1nnn` (R126). -/
def execJp (nnn : Addr) (s : State) : Result := .next (s.jumpTo (addrWord nnn))

/-- `2nnn` (R127): `StackOverflow` when the stack is full, else push `PC + 2` and jump. -/
def execCall (nnn : Addr) (s : State) : Result :=
  if h : s.sp.val < (reduceProj% (delta% sizes).stackDepth) then .next ((s.push (s.pc + BitVec.ofNat _ 2) h).jumpTo (addrWord nnn))
  else .next (s.raise .stackOverflow (encode (.call nnn)))

/-- `3xnn` (R128). -/
def execSeImm (x : Reg) (nn : Byte) (s : State) : Result := .next (s.skipIf (s.reg x == nn))

/-- `4xnn` (R129). -/
def execSneImm (x : Reg) (nn : Byte) (s : State) : Result := .next (s.skipIf (s.reg x != nn))

/-- `5xy0` (R130). -/
def execSeReg (x y : Reg) (s : State) : Result := .next (s.skipIf (s.reg x == s.reg y))

/-- `9xy0` (R131). -/
def execSneReg (x y : Reg) (s : State) : Result := .next (s.skipIf (s.reg x != s.reg y))

/-- `Bnnn` (R132). -/
def execJpV0 (nnn : Addr) (s : State) : Result := .next (s.jumpTo (s.v0Target nnn))

end Sys2Proof.Machine
end

