-- ==== Sys2Proof/Machine/Display.lean ====
section
/-! DEFINITION. Machine/Display.lean: display clear and the sprite blitter (43_display.md R201 to R204). -/

namespace Sys2Proof.Machine

/-- The framebuffer under way and whether a pixel has gone from foreground to background. -/
abbrev Canvas := FrameBuffer × Bool

/-- One set sprite bit at row `r`, column `c`: get_pixel, then set_pixel with the opposite (R202). -/
def Canvas.toggle (p : Canvas) (r : Row) (c : Col) : Canvas :=
  (FrameBuffer.put p.1 r c (!FrameBuffer.get p.1 r c), p.2 || FrameBuffer.get p.1 r c)

/-- Bit `bit` of the row byte `b`, bit 0 the most significant (R202). -/
def spriteBit (b : Byte) (bit : Nat) : Bool := b.getLsbD (7 - bit)

/-- The display row of sprite row `row` for an origin `cy`: rows wrap. -/
def displayRow (cy : Byte) (row : Nat) : Row := Fin.ofNat _ (cy.toNat + row)

/-- The display column of sprite bit `bit` for an origin `cx`: each pixel wraps by itself. -/
def displayCol (cx : Byte) (bit : Nat) : Col := Fin.ofNat _ (cx.toNat + bit)

/-- One sprite row, most significant bit first (R203). -/
def Canvas.drawRow (p : Canvas) (cx : Byte) (r : Row) (b : Byte) : Canvas :=
  (List.range 8).foldl (fun q bit => if spriteBit b bit then q.toggle r (displayCol cx bit) else q) p

/-- The `n` sprite rows at I and up, row 0 first (R203). -/
def State.drawSprite (s : State) (cx cy : Byte) (n : Nat) : Canvas :=
  (List.range n).foldl (fun q row => q.drawRow cx (displayRow cy row) (s.byteAtI row)) (s.fb, false)

/-- What a draw leaves: the canvas's framebuffer and its collision in VF. -/
def State.putCanvas (s : State) (p : Canvas) : State := (s.setFb p.1).setFlag p.2

/-- `00E0` (R201): VF is not written. -/
def execCls (s : State) : Result := .next (s.setFb FrameBuffer.blank).advance

/-- `Dxyn` (R202): the range check comes before any pixel or VF is written; with n = 0 there is no access and VF becomes 0. -/
def execDrw (x y : Reg) (n : Nibble) (s : State) : Result :=
  .next (s.checked params (s.effAddr 0) n.toNat (s.putCanvas (s.drawSprite (s.reg x) (s.reg y) n.toNat)).advance)

end Sys2Proof.Machine
end

