-- ==== Sys2Proof/Machine/Index.lean ====
section
/-! DEFINITION. Machine/Index.lean: the index register, loads and stores (42_index_memory.md R180 to R186). -/

namespace Sys2Proof.Machine

/-- `Annn` (R180). -/
def execLdI (nnn : Addr) (s : State) : Result := .next (s.setI (addrWord nnn)).advance

/-- `Fx1E` (R181): I modulo 65536, the flag from the unwrapped sum. -/
def execAddI (x : Reg) (s : State) : Result :=
  .next ((s.setI (s.i + byteWord (s.reg x))).setFlag (indexOverflow params s.i (s.reg x))).advance

/-- `Fx29` (R182). -/
def execLdF (x : Reg) (s : State) : Result := .next (s.setI (glyphAddr params (s.reg x))).advance

/-- `Fx33` (R183). -/
def execLdB (x : Reg) (s : State) : Result :=
  .next (s.checked params (s.effAddr 0) 3 (s.storeBytes (s.effAddr 0) (decimalDigits (s.reg x))).advance)

/-- `Fx55` (R184): I is unchanged. -/
def execStRegs (x : Reg) (s : State) : Result :=
  .next (s.checked params (s.effAddr 0) (blockSize x) (s.storeBytes (s.effAddr 0) (s.block x)).advance)

/-- `Fx65` (R185): I is unchanged. -/
def execLdRegs (x : Reg) (s : State) : Result :=
  .next (s.checked params (s.effAddr 0) (blockSize x) (s.loadBlock 0 (blockSize x)).advance)

end Sys2Proof.Machine
end

