-- ==== Sys2Proof/Machine/Keypad.lean ====
section
/-! DEFINITION. Machine/Keypad.lean: keypad and timer instructions (44_keypad_timers.md R221 to R227) and the poll of a pending
key wait (R224). -/

namespace Sys2Proof.Machine

/-- `Ex9E` and `ExA1`: skip when the level of key `V[x]` is `level`; an index that names no key raises `KeyIndexRange`. -/
def State.skipOnKey (s : State) (p : Params) (x : Reg) (level : Bool) : State :=
  match keyIndex p (s.reg x) with
  | none => s.raise .keyIndexRange (byteWord (s.reg x))
  | some k => s.skipIf (s.keyDown k == level)

/-- `Ex9E` (R221). -/
def execSkp (x : Reg) (s : State) : Result := .next (s.skipOnKey params x true)

/-- `ExA1` (R222). -/
def execSknp (x : Reg) (s : State) : Result := .next (s.skipOnKey params x false)

/-- `Fx0A` (R223): a key that is down ends the wait at once; else the machine waits, with no PC effect. -/
def execLdVxK (x : Reg) (s : State) : Result :=
  if s.keys = 0 then .next ((s.setMode .waitKey).setWaitReg x) else .next (s.takeKey params x)

/-- `Step` in `WAIT_KEY` (R224): poll the keys, no fetch. -/
def pollKeys (s : State) : Result :=
  if s.keys = 0 then .next s else .next ((s.takeKey params s.waitReg).setMode .run)

/-- `Fx07` (R225). -/
def execLdVxDt (x : Reg) (s : State) : Result := .next (s.setReg x s.dt).advance

/-- `Fx15` (R226). -/
def execLdDtVx (x : Reg) (s : State) : Result := .next (s.setDt (s.reg x)).advance

/-- `Fx18` (R227). -/
def execLdStVx (x : Reg) (s : State) : Result := .next (s.setSt (s.reg x)).advance

end Sys2Proof.Machine
end

