-- ==== Sys2Proof/Machine/Cycle.lean ====
section
/-! DEFINITION. Machine/Cycle.lean: the `Step` transition (40_cycle_control.md R120, R121) and the host's events (10_state.md R32). -/

namespace Sys2Proof.Machine

/-- Whether the two bytes at PC exist: `PC <= 0xFFE` (40_cycle_control.md R121). -/
def State.fetchable (s : State) (p : Params) : Bool := decide (s.pc.toNat + 1 < p.memSize)

/-- `{ M[PC], M[PC+1] }` (40_cycle_control.md R121). -/
def State.fetchWord (s : State) : Word := wordOf (s.byte s.pc.toNat) (s.byte (s.pc.toNat + 1))

/-- `Step` in `RUN`: fetch, decode, execute; the checks in the order of 60_exceptions.md R246. -/
def runCycle (s : State) : Result :=
  if s.fetchable params then
    match decode s.fetchWord with
    | .ok i => exec i s
    | .error _ => .next (s.raise .unsupportedInstruction s.fetchWord)
  else .next (s.raiseRange params s.pc.toNat)

/-- `Step(keys, rnd)` (40_cycle_control.md R120): by `MODE`; in `HALT` nothing changes (R133). -/
def cycle (s : State) : Result :=
  match s.mode with
  | .run => runCycle s
  | .waitKey => pollKeys s
  | .halt => .next s

/-- One transition of the machine: the first event of the host's script; with none listed, a `Step` with the key levels as
they stand (log 1). -/
def hostStep (s : State) : Result :=
  match s.script with
  | [] => cycle s
  | .step keys :: rest => cycle ((s.setScript rest).setKeys keys)
  | .tick :: rest => .next (s.setScript rest).tick
  | .reset image :: rest => .next ((s.setScript rest).resetWith image)

/-- The state in which the next transition is a `Step` in `RUN` that can fetch: what placing an instruction needs (log 19). -/
def State.readyToFetch (s : State) : State :=
  { s with
    pc := if s.fetchable params then s.pc else BitVec.ofNat _ params.progBase
    mode := .run
    script := match s.script with
      | [] => []
      | l => .step s.keys :: l }

/-- `s` with the word `w` in the two bytes at its PC, big-endian (20_memory.md R62). -/
def State.placeWord (s : State) (w : Word) : State := s.storeBytes s.pc.toNat [highByte w, lowByte w]

end Sys2Proof.Machine
end

