-- ==== Sys2Proof/Machine/Outputs.lean ====
section
/-! DEFINITION. Machine/Outputs.lean: the outputs of the block, plain functions of the state (10_state.md R33). -/

namespace Sys2Proof.Machine

/-- The display: the pixel the host sees at column `c`, row `r`. -/
def State.display (s : State) (c : Col) (r : Row) : Bool := s.pixel r c

/-- The sound counter: the value of ST and nothing more (92_eei_decisions.md D22). -/
def State.soundCounter (s : State) : TimerVal := s.st

/-- The delay counter. -/
def State.delayCounter (s : State) : TimerVal := s.dt

/-- The run state: `MODE` and `WAIT_REG`. -/
def State.runState (s : State) : Mode × Reg := (s.mode, s.waitReg)

/-- The fault record: the code of 60_exceptions.md R240, `FAULT_INFO` and `FAULT_PC`. -/
def State.faultRecord (s : State) : BitVec 3 × Word × Address := (s.faultCause.code, s.faultInfo, s.faultPc)

end Sys2Proof.Machine
end

