-- ==== Sys2Proof/Safety.lean ====
section
/-! DEFINITION. Safety.lean: what counts as a good run, and the words claims are written in: frames, fault entry seen from
outside, the register-write table of 10_state.md R23, the groups of unsupported words, the invariants of 10_state.md R37. -/

namespace Sys2Proof

open Sys2Proof.Machine

/-! ## Good states -/

/-- No fault has been raised: `MODE` is not `HALT` (00_scope.md R14: every fault is a transition to `HALT`). -/
def Safety.Good (s : State) : Prop := s.mode ≠ .halt

/-- The idle loop of 70_reset_and_hazards.md R287: `RUN`, and the instruction at PC is `1nnn` with nnn = PC. -/
def Safety.Idle (s : State) : Prop :=
  s.mode = .run ∧ s.fetchable params = true ∧ ∃ nnn, decode s.fetchWord = .ok (.jp nnn) ∧ addrWord nnn = s.pc

/-! ## Frames -/

/-- The parts of State other than the general registers and PC. -/
inductive Part where
  | index
  | stack
  | delay
  | sound
  | memory
  | display
  | mode
  | waitReg
  | faultRecord
  | draws
  deriving DecidableEq, Repr

/-- From `s` to `t` nothing has changed but the registers of `regs`, the parts of `parts` and PC (of which this says nothing).
Memory and display are compared by every read of a byte and of a pixel. -/
structure UnchangedExcept (regs : List Reg) (parts : List Part) (s t : State) : Prop where
  reg : ∀ r, r ∉ regs → t.reg r = s.reg r
  index : Part.index ∉ parts → t.i = s.i
  stack : Part.stack ∉ parts → t.sp = s.sp ∧ ∀ j, t.slot j = s.slot j
  delay : Part.delay ∉ parts → t.dt = s.dt
  sound : Part.sound ∉ parts → t.st = s.st
  memory : Part.memory ∉ parts → ∀ a, t.byte a = s.byte a
  display : Part.display ∉ parts → ∀ r c, t.pixel r c = s.pixel r c
  mode : Part.mode ∉ parts → t.mode = s.mode
  waitReg : Part.waitReg ∉ parts → t.waitReg = s.waitReg
  faultRecord : Part.faultRecord ∉ parts →
    t.faultCause = s.faultCause ∧ t.faultInfo = s.faultInfo ∧ t.faultPc = s.faultPc
  draws : Part.draws ∉ parts → t.draws = s.draws
  keys : t.keys = s.keys
  script : t.script = s.script

/-- From `s` to `t` a fault has been raised and nothing else has happened: the four writes of 60_exceptions.md R247, PC and
everything else as before. -/
structure OnlyRaises (cause : FaultCause) (info : Word) (s t : State) : Prop where
  halted : t.mode = .halt
  cause_eq : t.faultCause = cause
  info_eq : t.faultInfo = info
  faultPc_eq : t.faultPc = s.pc
  pc_eq : t.pc = s.pc
  rest : UnchangedExcept [] [.mode, .faultRecord] s t

/-- The state at which the executor of a `Step` sees the machine: a listed `Step` event has been taken and its key levels are
there; with no event listed, the state itself (log 1). -/
def atStep (s : State) : State :=
  match s.script with
  | .step keys :: rest => (s.setScript rest).setKeys keys
  | _ => s

/-- The next transition is a `Step`: no event is listed, or the first one is a `Step`. -/
def StepIsNext (s : State) : Prop := s.script = [] ∨ ∃ keys rest, s.script = .step keys :: rest

/-! ## Tables of the spec -/

/-- The general registers an instruction may write: the column "writes" of 10_state.md R23. -/
def writtenRegs : Instr → List Reg
  | .ldImm x _ | .addImm x _ | .ldReg x _ | .or x _ | .and x _ | .xor x _ | .rnd x _ | .ldVxDt x | .ldVxK x => [x]
  | .addReg x _ | .sub x _ | .subn x _ | .shr x _ | .shl x _ => [x, VF]
  | .drw _ _ _ | .addI _ => [VF]
  | .ldRegs x => (List.range (x.toNat + 1)).map (BitVec.ofNat 4)
  | _ => []

/-- The other parts an instruction may write: `I` (10_state.md R24), stack (R26), timers (R27), memory (R28), framebuffer
(R29), the wait (R30), and `MODE` with the fault record where it can raise (60_exceptions.md R240, R243). -/
def writtenParts : Instr → List Part
  | .cls => [.display]
  | .ret | .call _ => [.stack, .mode, .faultRecord]
  | .ldI _ | .addI _ | .ldF _ => [.index]
  | .rnd _ _ => [.draws]
  | .drw _ _ _ => [.display, .mode, .faultRecord]
  | .skp _ | .sknp _ | .ldRegs _ | .sys _ => [.mode, .faultRecord]
  | .ldVxK _ => [.mode, .waitReg]
  | .ldDtVx _ => [.delay]
  | .ldStVx _ => [.sound]
  | .ldB _ | .stRegs _ => [.memory, .mode, .faultRecord]
  | _ => []

/-- The addresses an instruction stores to: the three bytes of `Fx33` and the x + 1 bytes of `Fx55` from I up (20_memory.md R65,
42_index_memory.md R183, R184), at the addresses the meanings use. -/
def storedAddrs (i : Instr) (s : State) : List Nat :=
  match i with
  | .ldB _ => (List.range 3).map s.effAddr
  | .stRegs x => (List.range (blockSize x)).map s.effAddr
  | _ => []

/-- The values PC may have after an instruction that neither faults nor waits: the table of 40_cycle_control.md R122. -/
def pcAfter (i : Instr) (s : State) : List Address :=
  match i with
  | .jp nnn | .call nnn => [addrWord nnn]
  | .jpV0 nnn => [addrWord nnn + byteWord (s.reg 0)]
  | .ret => [s.slot (s.sp.val - 1)]
  | .seImm _ _ | .sneImm _ _ | .seReg _ _ | .sneReg _ _ | .skp _ | .sknp _ => [s.pc + 2#16, s.pc + 4#16]
  | _ => [s.pc + 2#16]

/-- The unsupported words of 30_encoding.md R96, group by group. -/
def unsupportedWord (w : Word) : Bool :=
  (fieldN3 w == 0x0 && w != 0x00E0 && w != 0x00EE) ||
  (fieldN3 w == 0x5 && fieldN0 w != 0x0) ||
  (fieldN3 w == 0x8 && [0x8#4, 0x9#4, 0xA#4, 0xB#4, 0xC#4, 0xD#4, 0xF#4].contains (fieldN0 w)) ||
  (fieldN3 w == 0x9 && fieldN0 w != 0x0) ||
  (fieldN3 w == 0xE && !([0x9E#8, 0xA1#8].contains (fieldNN w))) ||
  (fieldN3 w == 0xF &&
    !([0x07#8, 0x0A#8, 0x15#8, 0x18#8, 0x1E#8, 0x29#8, 0x33#8, 0x55#8, 0x65#8].contains (fieldNN w)))

/-! ## The sprite's pixel set (43_display.md R203) -/

/-- Whether pixel (r, c) is addressed by a set sprite bit of the sprite of `n` rows at I with origin column `cx` and row `cy`:
the set S of R203. -/
def InSprite (s : State) (cx cy : Byte) (n : Nat) (r : Row) (c : Col) : Prop :=
  ∃ row bit : Nat, row < n ∧ bit < 8 ∧ (s.byte (s.i.toNat + row)).getLsbD (7 - bit) = true ∧
    r.val = (cy.toNat + row) % 32 ∧ c.val = (cx.toNat + bit) % 64

/-! ## Invariants -/

/-- 10_state.md R37: occupied slots hold 0x0002 to 0x1000; a pending wait stands at its `Fx0A`; `HALT` exactly when a fault is
recorded; `PC <= 0x10FE`. (`0 <= SP <= 16` is in the type of SP.) -/
structure Invariant (s : State) : Prop where
  slots : ∀ j, j < s.sp.val → 0x0002 ≤ (s.slot j).toNat ∧ (s.slot j).toNat ≤ 0x1000
  waits : s.mode = .waitKey → s.pc.toNat ≤ 0xFFE ∧ decode s.fetchWord = .ok (.ldVxK s.waitReg)
  halted : s.mode = .halt ↔ s.faultCause ≠ .none
  range : s.pc.toNat ≤ 0x10FE

/-- The memory list is in canonical form: addresses strictly rising, below `MEM_SIZE`, and nothing listed that reads so anyway. -/
def MemoryInForm (s : State) : Prop := s.mem.wf

end Sys2Proof
end

