-- ==== Sys2Proof/Certificates/Slice0/Obligations.lean ====
section
/-! DEFINITION. Certificates/Slice0/Obligations.lean: the statements for the provers, each with the rule of spec/ it formalises.
OBLIGATIONS.json lists them in this order. -/

open Sys2Proof Sys2Proof.Machine

/-! ## Encoding -/

/-- A few words written out from the patterns of 30_encoding.md R95 decode to what they stand for. -/
def Obligations.WrittenWordsDecode : Prop :=
  decode 0x00E0#16 = .ok .cls ∧ decode 0x00EE#16 = .ok .ret ∧ decode 0x00E1#16 = .ok (.sys 0x0E1) ∧
  decode 0x3A10#16 = .ok (.seImm 10 0x10) ∧ decode 0x8F1E#16 = .ok (.shl 15 1) ∧
  decode 0xD125#16 = .ok (.drw 1 2 5) ∧ decode 0xE5A1#16 = .ok (.sknp 5) ∧ decode 0xF355#16 = .ok (.stRegs 3) ∧
  decode 0x5121#16 = .error (.unsupported 0x5121)

/-- For every well-formed instruction, decoding its word gives it back: no operand bit is dropped (30_encoding.md R91 to R95). -/
def Obligations.DecodeInvertsEncode : Prop :=
  ∀ i : Instr, i.WellFormed → decode (encode i) = .ok i

/-- What the decoder accepts is well-formed and encodes to the word it was read from (30_encoding.md R91 to R95). -/
def Obligations.EncodeInvertsDecode : Prop :=
  ∀ (w : Word) (i : Instr), decode w = .ok i → i.WellFormed ∧ encode i = w

/-- The decoder takes the first row of the opcode map whose test the word passes, refuses by name a word that passes none, and the
34 executable rows are pairwise disjoint (30_encoding.md R94, R95). -/
def Obligations.DecoderTakesFirstMatchingRow : Prop :=
  (∀ (w : Word) (i : Instr), decode w = .ok i →
    (opcodeMap.find? (fun row => row.selects w)).map OpcodeRow.mnemonic = some i.mnemonic) ∧
  (∀ (w : Word) (e : DecodeError), decode w = .error e →
    opcodeMap.find? (fun row => row.selects w) = none ∧ e = .unsupported w) ∧
  (∀ (w : Word) (p q : OpcodeRow), p ∈ opcodeMap.take 34 → q ∈ opcodeMap.take 34 →
    p.selects w = true → q.selects w = true → p = q)

/-- The words of the six groups of 30_encoding.md R96 are exactly those the decoder refuses and those it reads as SYS. -/
def Obligations.UnsupportedWordsAreTheListedGroups : Prop :=
  ∀ w : Word, unsupportedWord w = true ↔
    decode w = .error (.unsupported w) ∨ ∃ nnn, decode w = .ok (.sys nnn)

/-- An instruction placed where the next step fetches is the one that step runs, from every state in `RUN` with PC in range and no
event pending (40_cycle_control.md R120, R121; 20_memory.md R62). Placing stands for the host's load (DESIGN CHOICE, log 19). -/
def Obligations.PlacedInstructionRunsNext : Prop :=
  ∀ (i : Instr) (s : State), i.WellFormed → s.mode = .run → s.pc.toNat ≤ 0xFFE → s.script = [] →
    step (s.withFetchWord 16 (encode i).toNat) = exec i (s.withFetchWord 16 (encode i).toNat)

/-! ## The step cycle -/

/-- A step runs the decoded instruction: in `RUN`, with the two bytes at PC in memory and decoding to i, a step that the host's next
event makes a `Step` is exec of i. Around it the model only takes the `Step` event (if one is listed) and sets its key levels: the
host's events as a list in State are the model's choice (DESIGN CHOICE, log 1, log 2). -/
def Obligations.StepRunsDecodedInstruction : Prop :=
  ∀ (s : State) (i : Instr), StepIsNext s → s.mode = .run → s.pc.toNat ≤ 0xFFE →
    decode (s.byte s.pc.toNat ++ s.byte (s.pc.toNat + 1)) = .ok i → step s = exec i (atStep s)

/-- The fetch (40_cycle_control.md R121): PC above 0xFFE raises MemoryRange(max(PC, 0x1000)); otherwise the word is
{ M[PC], M[PC+1] }. That the range is checked at the fetch is the spec's decision D11 (log 11). -/
def Obligations.FetchReadsTwoBytesOrRaises : Prop :=
  ∀ s : State, StepIsNext s → s.mode = .run →
    (0xFFE < s.pc.toNat → ∃ t, step s = .next t ∧
      OnlyRaises .memoryRange (BitVec.ofNat 16 (max s.pc.toNat 0x1000)) (atStep s) t) ∧
    (s.pc.toNat ≤ 0xFFE → s.fetchWord = s.byte s.pc.toNat ++ s.byte (s.pc.toNat + 1))

/-- UnsupportedInstruction is raised for every executed word of the groups of 30_encoding.md R96, with the word as info, and for no
other word (60_exceptions.md R241). The word as info and the
frame are R96 and R247 with the spec's decision D10 (log 10); that the next transition is a `Step`, and atStep, are DESIGN CHOICE (log
1, log 2). -/
def Obligations.UnsupportedWordRaises : Prop :=
  ∀ s : State, StepIsNext s → s.mode = .run → s.pc.toNat ≤ 0xFFE →
    (unsupportedWord s.fetchWord = true → ∃ t, step s = .next t ∧
      OnlyRaises .unsupportedInstruction s.fetchWord (atStep s) t) ∧
    (unsupportedWord s.fetchWord = false → ∀ t, step s = .next t → t.mode = .halt →
      t.faultCause ≠ .unsupportedInstruction)

/-- In `HALT` a `Step` and a `Tick` change nothing of the block (40_cycle_control.md R133, R251: the spec's decisions D24, D16; log 10,
log 15); the model takes the event, if one is listed, and the key levels. -/
def Obligations.HaltIgnoresStepAndTick : Prop :=
  ∀ s : State, s.mode = .halt →
    (StepIsNext s → step s = .next (atStep s)) ∧
    (∀ rest, s.script = .tick :: rest → step s = .next (s.setScript rest))

/-- Only `Reset` leaves `HALT` (60_exceptions.md R248). -/
def Obligations.OnlyResetLeavesHalt : Prop :=
  ∀ s t : State, s.mode = .halt → step s = .next t → t.mode ≠ .halt → ∃ image rest, s.script = .reset image :: rest

/-- Fault entry is precise, over every step: a `Step` that enters `HALT` makes the four writes of 60_exceptions.md R247 and changes
nothing else, and no other event enters `HALT`. What a fault records is the spec's decision D10 (log 10). -/
def Obligations.FaultsArePrecise : Prop :=
  ∀ s t : State, s.mode ≠ .halt → step s = .next t → t.mode = .halt →
    StepIsNext s ∧ ∃ cause info, cause ≠ .none ∧ OnlyRaises cause info (atStep s) t

/-- Every step answers a next state: the spec leaves no case without one, and a fault of the spec is a state (the
spec's decision D10; log 10). -/
def Obligations.EveryStepAnswersNext : Prop :=
  ∀ s : State, ∃ t, step s = .next t

/-- In `WAIT_KEY` with no key down a `Step` changes nothing and fetches nothing (44_keypad_timers.md R224; the spec's decision
D9, log 9). -/
def Obligations.WaitWithoutKeyChangesNothing : Prop :=
  ∀ s : State, StepIsNext s → s.mode = .waitKey → (atStep s).keys = 0 → step s = .next (atStep s)

/-- In `WAIT_KEY` with a key down a `Step` loads the waiting register with the index of a pressed key, advances PC and returns to
`RUN`; it executes no other instruction. That it is the LOWEST pressed key is the spec's decision D9 (KEYWAIT_PICK, log 9). -/
def Obligations.WaitEndsWithLowestKey : Prop :=
  ∀ s : State, StepIsNext s → s.mode = .waitKey → (atStep s).keys ≠ 0 →
    ∃ t k, step s = .next t ∧ (atStep s).keys.getLsbD k = true ∧ (∀ j, j < k → (atStep s).keys.getLsbD j = false) ∧
      t.reg s.waitReg = BitVec.ofNat 8 k ∧ t.mode = .run ∧ t.pc = s.pc + 2#16 ∧
      UnchangedExcept [s.waitReg] [.mode] (atStep s) t

/-- From the idle loop of 70_reset_and_hazards.md R287 every further `Step`, with whatever key levels, changes nothing of the block; the
model takes the event, if one is listed, and its key levels (DESIGN CHOICE, log 1, log 2). The idle loop is the spec's own convention
(D17) and no property of the hardware. -/
def Obligations.IdleLoopStays : Prop :=
  ∀ s : State, Safety.Idle s → StepIsNext s → step s = .next (atStep s)

/-! ## Reset and Tick -/

/-- The program image (70_reset_and_hazards.md R281): its first 3584 bytes from 0x200 up, 0 after it; the first word executed is its
first two bytes; with an empty image the first `Step` raises UnsupportedInstruction(0x0000). That the step after a `Reset`
with no event listed is that `Step` is DESIGN CHOICE (log 1, log 19). -/
def Obligations.ResetLoadsTheImage : Prop :=
  (∀ (s : State) (image : List Byte) (a : Nat), 0x200 ≤ a → a ≤ 0xFFF →
    (s.resetWith image).byte a = if a - 0x200 < min image.length 3584 then image.getD (a - 0x200) 0 else 0) ∧
  (∀ (s : State) (high low : Byte) (rest : List Byte),
    (s.resetWith (high :: low :: rest)).pc = 0x200 ∧ (s.resetWith (high :: low :: rest)).fetchWord = high ++ low) ∧
  (∀ s : State, s.script = [] → ∃ t, step (s.resetWith []) = .next t ∧
    OnlyRaises .unsupportedInstruction 0x0000 (s.resetWith []) t)

/-- Below the program area `Reset` leaves the font at 0x000 and zeros after it. The font's bytes and address are PRESUMED (log 5;
70_reset_and_hazards.md R282 takes them from general knowledge). -/
def Obligations.ResetLoadsTheFont : Prop :=
  ∀ (s : State) (image : List Byte) (a : Nat), a < 0x200 →
    (s.resetWith image).byte a = if a < 80 then fontTable.getD a 0 else 0

/-- A `Reset` event, in any state, leaves the state of State.resetWith (the host's side as before it, log 21), and in it what the
source's lifecycle sentence fixes: PC 0x200, SP 0, timers 0, the display clear, and `RUN`; and `State.reset` is what `Reset` with an empty image leaves. A reset that can be raised again is the spec's decision D1
(log 19, log 21). -/
def Obligations.ResetSetsTheSourcesValues : Prop :=
  (∀ (s : State) (image : List Byte) (rest : List HostEvent), s.script = .reset image :: rest →
    ∃ t, step s = .next t ∧ t = (s.setScript rest).resetWith image ∧ t.pc = 0x200 ∧ t.sp.val = 0 ∧ t.dt = 0 ∧ t.st = 0 ∧ (∀ r c, t.pixel r c = false) ∧
      t.mode = .run ∧ t.script = rest ∧ ∀ a, t.byte a = (s.resetWith image).byte a) ∧
  State.reset.resetWith [] = State.reset

/-- The reset values that are the spec's decisions D2 and D10 and not the source's: V, I, STACK, WAIT_REG and the fault record are 0
(log 4): in the state State.resetWith gives, and after the step that takes a `Reset` event. -/
def Obligations.ResetClearsTheRegisters : Prop :=
  (∀ (s : State) (image : List Byte),
    (∀ r, (s.resetWith image).reg r = 0) ∧ (s.resetWith image).i = 0 ∧ (∀ j, (s.resetWith image).slot j = 0) ∧
    (s.resetWith image).waitReg = 0 ∧ (s.resetWith image).faultRecord = (0, 0, 0)) ∧
  (∀ (s : State) (image : List Byte) (rest : List HostEvent), s.script = .reset image :: rest →
    ∃ t, step s = .next t ∧ (∀ r, t.reg r = 0) ∧ t.i = 0 ∧ (∀ j, t.slot j = 0) ∧ t.waitReg = 0 ∧ t.faultRecord = (0, 0, 0))

/-- `Tick` (60_exceptions.md R251): outside `HALT` each non-zero timer counts down by one and a zero one stays; in `HALT` nothing
changes; nothing else changes ever. `HALT` and the interleaving are the spec's decision D16 (log 15). -/
def Obligations.TickCountsTheTimersDown : Prop :=
  ∀ (s : State) (rest : List HostEvent), s.script = .tick :: rest →
    ∃ t, step s = .next t ∧ t.pc = s.pc ∧ UnchangedExcept [] [.delay, .sound] (s.setScript rest) t ∧
      (s.mode = .halt → t.dt = s.dt ∧ t.st = s.st) ∧
      (s.mode ≠ .halt →
        (s.dt ≠ 0 → t.dt = s.dt - 1) ∧ (s.dt = 0 → t.dt = 0) ∧ (s.st ≠ 0 → t.st = s.st - 1) ∧ (s.st = 0 → t.st = 0))

/-- `n` ticks take a timer `n` down, and never below zero (60_exceptions.md R251; the source's example S7). That `HALT` is excepted
is the spec's decision D16 (log 15). -/
def Obligations.TicksReachZeroAndStay : Prop :=
  ∀ (n : Nat) (s : State), s.mode ≠ .halt →
    (State.tick^[n] s).dt.toNat = s.dt.toNat - n ∧ (State.tick^[n] s).st.toNat = s.st.toNat - n

/-! ## Control transfer -/

/-- SYS always raises UnsupportedInstruction with its whole word (40_cycle_control.md R124). -/
def Obligations.SysAlwaysRaises : Prop :=
  ∀ (nnn : Addr) (s : State), ∃ t, exec (.sys nnn) s = .next t ∧
    OnlyRaises .unsupportedInstruction (0x0#4 ++ nnn) s t

/-- RET (40_cycle_control.md R125): to the popped address, which is not cleared from its slot; StackUnderflow on an empty stack. -/
def Obligations.RetPopsOrUnderflows : Prop :=
  ∀ s : State,
    (s.sp.val = 0 → ∃ t, exec .ret s = .next t ∧ OnlyRaises .stackUnderflow 0x00EE s t) ∧
    (0 < s.sp.val → ∃ t, exec .ret s = .next t ∧ t.pc = s.slot (s.sp.val - 1) ∧ t.sp.val = s.sp.val - 1 ∧
      (∀ j, t.slot j = s.slot j) ∧ UnchangedExcept [] [.stack] s t)

/-- JP and JP V0 (40_cycle_control.md R126, R132): to nnn, and to the 13-bit sum nnn + V0, which is not reduced. -/
def Obligations.JumpsGoToTheirTargets : Prop :=
  ∀ (nnn : Addr) (s : State),
    (∃ t, exec (.jp nnn) s = .next t ∧ t.pc.toNat = nnn.toNat ∧ UnchangedExcept [] [] s t) ∧
    (∃ t, exec (.jpV0 nnn) s = .next t ∧ t.pc.toNat = nnn.toNat + (s.reg 0).toNat ∧ UnchangedExcept [] [] s t)

/-- CALL (40_cycle_control.md R127): pushes PC + 2 and jumps; StackOverflow on a full stack, with nothing changed. -/
def Obligations.CallPushesOrOverflows : Prop :=
  ∀ (nnn : Addr) (s : State),
    (s.sp.val = 16 → ∃ t, exec (.call nnn) s = .next t ∧ OnlyRaises .stackOverflow (0x2#4 ++ nnn) s t) ∧
    (s.sp.val < 16 → ∃ t, exec (.call nnn) s = .next t ∧ t.pc.toNat = nnn.toNat ∧ t.sp.val = s.sp.val + 1 ∧
      t.slot s.sp.val = s.pc + 2#16 ∧ (∀ j, j ≠ s.sp.val → t.slot j = s.slot j) ∧ UnchangedExcept [] [.stack] s t)

/-- CALL and then RET leave PC after the call, SP and every occupied slot as before (the source's property S6). -/
def Obligations.CallThenRetReturns : Prop :=
  ∀ (nnn : Addr) (s t : State), s.sp.val < 16 → exec (.call nnn) s = .next t →
    ∃ u, exec .ret t = .next u ∧ u.pc = s.pc + 2#16 ∧ u.sp = s.sp ∧ (∀ j, j < s.sp.val → u.slot j = s.slot j) ∧
      UnchangedExcept [] [.stack] s u

/-- SE and SNE, with an immediate and with two registers (40_cycle_control.md R128 to R131). -/
def Obligations.SkipsCompareTheirOperands : Prop :=
  ∀ (x y : Reg) (nn : Byte) (s : State),
    (∃ t, exec (.seImm x nn) s = .next t ∧ t.pc = s.pc + (if s.reg x = nn then 4#16 else 2#16) ∧
      UnchangedExcept [] [] s t) ∧
    (∃ t, exec (.sneImm x nn) s = .next t ∧ t.pc = s.pc + (if s.reg x = nn then 2#16 else 4#16) ∧
      UnchangedExcept [] [] s t) ∧
    (∃ t, exec (.seReg x y) s = .next t ∧ t.pc = s.pc + (if s.reg x = s.reg y then 4#16 else 2#16) ∧
      UnchangedExcept [] [] s t) ∧
    (∃ t, exec (.sneReg x y) s = .next t ∧ t.pc = s.pc + (if s.reg x = s.reg y then 2#16 else 4#16) ∧
      UnchangedExcept [] [] s t)

/-! ## Registers and ALU -/

/-- LD with an immediate and LD with a register (41_alu.md R151, R153), x = 15 included. That no other register, VF among them, is
written the spec derives (D27, log 20). -/
def Obligations.LoadsIntoRegister : Prop :=
  (∀ (x : Reg) (nn : Byte) (s : State), ∃ t, exec (.ldImm x nn) s = .next t ∧ t.reg x = nn ∧ t.pc = s.pc + 2#16 ∧
    UnchangedExcept [x] [] s t) ∧
  (∀ (x y : Reg) (s : State), ∃ t, exec (.ldReg x y) s = .next t ∧ t.reg x = s.reg y ∧ t.pc = s.pc + 2#16 ∧
    UnchangedExcept [x] [] s t)

/-- ADD with an immediate (41_alu.md R152): modulo 256, VF unaffected unless it is the destination. -/
def Obligations.AddImmediateWrapsWithoutFlag : Prop :=
  ∀ (x : Reg) (nn : Byte) (s : State), ∃ t, exec (.addImm x nn) s = .next t ∧
    (t.reg x).toNat = ((s.reg x).toNat + nn.toNat) % 256 ∧ t.pc = s.pc + 2#16 ∧ UnchangedExcept [x] [] s t

/-- OR, AND and XOR (41_alu.md R154, R155, R156), bit by bit; VF is not written unless it is the destination,
which the spec derives (D27, log 20). -/
def Obligations.LogicWritesOnlyTheDestination : Prop :=
  ∀ (x y : Reg) (s : State),
    (∃ t, exec (.or x y) s = .next t ∧
      (∀ k, (t.reg x).getLsbD k = ((s.reg x).getLsbD k || (s.reg y).getLsbD k)) ∧ t.pc = s.pc + 2#16 ∧
      UnchangedExcept [x] [] s t) ∧
    (∃ t, exec (.and x y) s = .next t ∧
      (∀ k, (t.reg x).getLsbD k = ((s.reg x).getLsbD k && (s.reg y).getLsbD k)) ∧ t.pc = s.pc + 2#16 ∧
      UnchangedExcept [x] [] s t) ∧
    (∃ t, exec (.xor x y) s = .next t ∧
      (∀ k, (t.reg x).getLsbD k = ((s.reg x).getLsbD k ^^ (s.reg y).getLsbD k)) ∧ t.pc = s.pc + 2#16 ∧
      UnchangedExcept [x] [] s t)

/-- ADD of two registers (41_alu.md R157) where the result and the flag go to two registers: the low 8 bits of the sum and the
carry. x = 15, which R157 leaves to R150, is in FlagWinsInVF. -/
def Obligations.AddRegisterCarries : Prop :=
  ∀ (x y : Reg) (s : State), x ≠ VF → ∃ t, exec (.addReg x y) s = .next t ∧
    (t.reg x).toNat = ((s.reg x).toNat + (s.reg y).toNat) % 256 ∧
    t.reg VF = (if 255 < (s.reg x).toNat + (s.reg y).toNat then 1 else 0) ∧ t.pc = s.pc + 2#16 ∧
    UnchangedExcept [x, VF] [] s t

/-- SUB and SUBN (41_alu.md R158, R160) where the result and the flag go to two registers: modulo 256, the flag strictly greater.
x = 15 is in FlagWinsInVF. -/
def Obligations.SubtractionsFlagStrictlyGreater : Prop :=
  ∀ (x y : Reg) (s : State), x ≠ VF →
    (∃ t, exec (.sub x y) s = .next t ∧
      (t.reg x).toNat = ((s.reg x).toNat + 256 - (s.reg y).toNat) % 256 ∧
      t.reg VF = (if (s.reg y).toNat < (s.reg x).toNat then 1 else 0) ∧ t.pc = s.pc + 2#16 ∧
      UnchangedExcept [x, VF] [] s t) ∧
    (∃ t, exec (.subn x y) s = .next t ∧
      (t.reg x).toNat = ((s.reg y).toNat + 256 - (s.reg x).toNat) % 256 ∧
      t.reg VF = (if (s.reg x).toNat < (s.reg y).toNat then 1 else 0) ∧ t.pc = s.pc + 2#16 ∧
      UnchangedExcept [x, VF] [] s t)

/-- SHR and SHL (41_alu.md R159, R161) where the result and the flag go to two registers: in place, whatever y is, the bit shifted
out in VF. x = 15 is in FlagWinsInVF. -/
def Obligations.ShiftsInPlace : Prop :=
  ∀ (x y : Reg) (s : State), x ≠ VF →
    (∃ t, exec (.shr x y) s = .next t ∧ (t.reg x).toNat = (s.reg x).toNat / 2 ∧
      (t.reg VF).toNat = (s.reg x).toNat % 2 ∧ t.pc = s.pc + 2#16 ∧ UnchangedExcept [x, VF] [] s t) ∧
    (∃ t, exec (.shl x y) s = .next t ∧ (t.reg x).toNat = (s.reg x).toNat * 2 % 256 ∧
      (t.reg VF).toNat = (s.reg x).toNat / 128 ∧ t.pc = s.pc + 2#16 ∧ UnchangedExcept [x, VF] [] s t)

/-- The five flag-writing instructions with x = 15: VF ends with the flag and the result is lost. This is the spec's decision D6
(VF_WRITE_PRIORITY = flag, log 7), not the source's. -/
def Obligations.FlagWinsInVF : Prop :=
  ∀ (y : Reg) (s : State),
    (∃ t, exec (.addReg VF y) s = .next t ∧
      t.reg VF = (if 255 < (s.reg VF).toNat + (s.reg y).toNat then 1 else 0) ∧ t.pc = s.pc + 2#16 ∧
      UnchangedExcept [VF] [] s t) ∧
    (∃ t, exec (.sub VF y) s = .next t ∧ t.reg VF = (if (s.reg y).toNat < (s.reg VF).toNat then 1 else 0) ∧
      t.pc = s.pc + 2#16 ∧ UnchangedExcept [VF] [] s t) ∧
    (∃ t, exec (.subn VF y) s = .next t ∧ t.reg VF = (if (s.reg VF).toNat < (s.reg y).toNat then 1 else 0) ∧
      t.pc = s.pc + 2#16 ∧ UnchangedExcept [VF] [] s t) ∧
    (∃ t, exec (.shr VF y) s = .next t ∧ (t.reg VF).toNat = (s.reg VF).toNat % 2 ∧ t.pc = s.pc + 2#16 ∧
      UnchangedExcept [VF] [] s t) ∧
    (∃ t, exec (.shl VF y) s = .next t ∧ (t.reg VF).toNat = (s.reg VF).toNat / 128 ∧ t.pc = s.pc + 2#16 ∧
      UnchangedExcept [VF] [] s t)

/-- RND (41_alu.md R162): a value from 0 to nn, both included (the spec's decision D7). Which one is a free value (DESIGN CHOICE,
log 3), so nothing more is said. -/
def Obligations.RandomStaysWithinBound : Prop :=
  ∀ (x : Reg) (nn : Byte) (s : State), ∃ t, exec (.rnd x nn) s = .next t ∧ (t.reg x).toNat ≤ nn.toNat ∧
    t.pc = s.pc + 2#16 ∧ UnchangedExcept [x] [.draws] s t

/-! ## Index register and memory -/

/-- LD I and LD F (42_index_memory.md R180, R182): nnn, and FONT_BASE + 5 times the low nibble; no memory is read. -/
def Obligations.IndexLoads : Prop :=
  (∀ (nnn : Addr) (s : State), ∃ t, exec (.ldI nnn) s = .next t ∧ t.i.toNat = nnn.toNat ∧ t.pc = s.pc + 2#16 ∧
    UnchangedExcept [] [.index] s t) ∧
  (∀ (x : Reg) (s : State), ∃ t, exec (.ldF x) s = .next t ∧
    t.i.toNat = params.fontBase + 5 * ((s.reg x).toNat % 16) ∧ t.pc = s.pc + 2#16 ∧ UnchangedExcept [] [.index] s t)

/-- ADD I (42_index_memory.md R181) where the sum fits I's 16 bits: I holds the sum unmasked, VF says whether it is at least
0x1000. x = 15 included: the addend is the old VF. The limit is the spec's decision D4 (log 6). -/
def Obligations.AddIndexFlagsOutOfRange : Prop :=
  ∀ (x : Reg) (s : State), s.i.toNat + (s.reg x).toNat < 65536 →
    ∃ t, exec (.addI x) s = .next t ∧ t.i.toNat = s.i.toNat + (s.reg x).toNat ∧
      t.reg VF = (if 0x1000 ≤ s.i.toNat + (s.reg x).toNat then 1 else 0) ∧ t.pc = s.pc + 2#16 ∧
      UnchangedExcept [VF] [.index] s t

/-- ADD I where the sum does not fit: I wraps modulo 65536 and VF is 1. The wrap is the spec's decision D20 (log 12). -/
def Obligations.AddIndexWraps : Prop :=
  ∀ (x : Reg) (s : State), 65536 ≤ s.i.toNat + (s.reg x).toNat →
    ∃ t, exec (.addI x) s = .next t ∧ t.i.toNat = s.i.toNat + (s.reg x).toNat - 65536 ∧ t.reg VF = 1 ∧
      t.pc = s.pc + 2#16 ∧ UnchangedExcept [VF] [.index] s t

/-- LD B (42_index_memory.md R183): the three decimal digits at I, I+1, I+2, or MemoryRange with nothing written. -/
def Obligations.StoreDecimalDigits : Prop :=
  ∀ (x : Reg) (s : State),
    (0xFFF < s.i.toNat + 2 → ∃ t, exec (.ldB x) s = .next t ∧
      OnlyRaises .memoryRange (BitVec.ofNat 16 (max s.i.toNat 0x1000)) s t) ∧
    (s.i.toNat + 2 ≤ 0xFFF → ∃ t, exec (.ldB x) s = .next t ∧
      (t.byte s.i.toNat).toNat = (s.reg x).toNat / 100 ∧
      (t.byte (s.i.toNat + 1)).toNat = (s.reg x).toNat / 10 % 10 ∧
      (t.byte (s.i.toNat + 2)).toNat = (s.reg x).toNat % 10 ∧
      (∀ a, a < s.i.toNat ∨ s.i.toNat + 2 < a → t.byte a = s.byte a) ∧ t.pc = s.pc + 2#16 ∧
      UnchangedExcept [] [.memory] s t)

/-- LD [I] (42_index_memory.md R184): V0 to Vx at I and up, or MemoryRange with nothing written. That I is unchanged the
spec derives (D28, log 20). -/
def Obligations.StoreRegisterBlock : Prop :=
  ∀ (x : Reg) (s : State),
    (0xFFF < s.i.toNat + x.toNat → ∃ t, exec (.stRegs x) s = .next t ∧
      OnlyRaises .memoryRange (BitVec.ofNat 16 (max s.i.toNat 0x1000)) s t) ∧
    (s.i.toNat + x.toNat ≤ 0xFFF → ∃ t, exec (.stRegs x) s = .next t ∧
      (∀ k : Reg, k.toNat ≤ x.toNat → t.byte (s.i.toNat + k.toNat) = s.reg k) ∧
      (∀ a, a < s.i.toNat ∨ s.i.toNat + x.toNat < a → t.byte a = s.byte a) ∧ t.pc = s.pc + 2#16 ∧
      UnchangedExcept [] [.memory] s t)

/-- LD Vx, [I] (42_index_memory.md R185): V0 to Vx from I and up, I and the registers above x unchanged, or MemoryRange with no
register written. That I is unchanged the spec derives (D28, log 20). -/
def Obligations.LoadRegisterBlock : Prop :=
  ∀ (x : Reg) (s : State),
    (0xFFF < s.i.toNat + x.toNat → ∃ t, exec (.ldRegs x) s = .next t ∧
      OnlyRaises .memoryRange (BitVec.ofNat 16 (max s.i.toNat 0x1000)) s t) ∧
    (s.i.toNat + x.toNat ≤ 0xFFF → ∃ t, exec (.ldRegs x) s = .next t ∧
      (∀ k : Reg, k.toNat ≤ x.toNat → t.reg k = s.byte (s.i.toNat + k.toNat)) ∧
      (∀ k : Reg, x.toNat < k.toNat → t.reg k = s.reg k) ∧ t.pc = s.pc + 2#16 ∧
      UnchangedExcept (writtenRegs (.ldRegs x)) [] s t)

/-- Memory as the intermediate is exact: after LD [I] stored V0 to Vx, LD Vx, [I] in any state with that memory and the same I
restores them (the source's property S4). -/
def Obligations.StoreThenLoadRestores : Prop :=
  ∀ (x : Reg) (s t u : State), s.i.toNat + x.toNat ≤ 0xFFF → exec (.stRegs x) s = .next t →
    (∀ a, u.byte a = t.byte a) → u.i = t.i →
    ∃ w, exec (.ldRegs x) u = .next w ∧ ∀ k : Reg, k.toNat ≤ x.toNat → w.reg k = s.reg k

/-- A store is seen by the very next fetch (20_memory.md R74): where LD [I] overwrites the two bytes after itself, the word fetched
next is made of the two registers stored there. The spec marks the rule as derived. -/
def Obligations.StoreSeenByNextFetch : Prop :=
  ∀ (x k : Reg) (s t : State), k.toNat + 1 ≤ x.toNat → s.i.toNat + x.toNat ≤ 0xFFF →
    exec (.stRegs x) s = .next t → t.pc.toNat = s.i.toNat + k.toNat →
    t.fetchWord = s.reg k ++ s.reg (k + 1)

/-! ## Display -/

/-- CLS (43_display.md R201): every pixel background, VF not written. -/
def Obligations.ClearScreen : Prop :=
  ∀ s : State, ∃ t, exec .cls s = .next t ∧ (∀ r c, t.pixel r c = false) ∧ t.pc = s.pc + 2#16 ∧
    UnchangedExcept [] [.display] s t

/-- DRW (43_display.md R202) in the closed form of R203: exactly the pixels addressed by set sprite bits are toggled, wrapping per
pixel; VF is 1 if one of them was foreground and 0 otherwise; n = 0 reads and draws nothing (the spec's decision
D15, log 14); out of range, only MemoryRange. -/
def Obligations.DrawTogglesTheSprite : Prop :=
  ∀ (x y : Reg) (n : Nibble) (s : State),
    (0 < n.toNat → 0xFFF < s.i.toNat + n.toNat - 1 → ∃ t, exec (.drw x y n) s = .next t ∧
      OnlyRaises .memoryRange (BitVec.ofNat 16 (max s.i.toNat 0x1000)) s t) ∧
    (n.toNat = 0 ∨ s.i.toNat + n.toNat - 1 ≤ 0xFFF → ∃ t, exec (.drw x y n) s = .next t ∧
      (∀ r c, InSprite s (s.reg x) (s.reg y) n.toNat r c → t.pixel r c = !s.pixel r c) ∧
      (∀ r c, ¬ InSprite s (s.reg x) (s.reg y) n.toNat r c → t.pixel r c = s.pixel r c) ∧
      ((∃ r c, InSprite s (s.reg x) (s.reg y) n.toNat r c ∧ s.pixel r c = true) → t.reg VF = 1) ∧
      ((∀ r c, InSprite s (s.reg x) (s.reg y) n.toNat r c → s.pixel r c = false) → t.reg VF = 0) ∧
      t.pc = s.pc + 2#16 ∧ UnchangedExcept [VF] [.display] s t)

/-- Drawing the same sprite twice restores every pixel, and the second draw's VF is 1 exactly when the first set some pixel to
foreground (43_display.md R205; the source's property S5), for origins not in VF. -/
def Obligations.DrawTwiceRestores : Prop :=
  ∀ (x y : Reg) (n : Nibble) (s t u : State), x ≠ VF → y ≠ VF → n.toNat = 0 ∨ s.i.toNat + n.toNat - 1 ≤ 0xFFF →
    exec (.drw x y n) s = .next t → exec (.drw x y n) t = .next u →
    (∀ r c, u.pixel r c = s.pixel r c) ∧
    (u.reg VF = 1 ↔ ∃ r c, s.pixel r c = false ∧ t.pixel r c = true)

/-! ## Keypad and timers -/

/-- SKP and SKNP with a register that names a key (44_keypad_timers.md R221, R222): they test its level at this step. A value above
15 is in KeyIndexAboveFifteenRaises. -/
def Obligations.KeySkipsTestTheLevel : Prop :=
  ∀ (x : Reg) (s : State), (s.reg x).toNat ≤ 15 →
    (∃ t, exec (.skp x) s = .next t ∧
      t.pc = s.pc + (if s.keys.getLsbD (s.reg x).toNat = true then 4#16 else 2#16) ∧ UnchangedExcept [] [] s t) ∧
    (∃ t, exec (.sknp x) s = .next t ∧
      t.pc = s.pc + (if s.keys.getLsbD (s.reg x).toNat = true then 2#16 else 4#16) ∧ UnchangedExcept [] [] s t)

/-- SKP and SKNP with a register above 15 raise KeyIndexRange with the register's value. This is the spec's decision D8
(KEY_INDEX_POLICY = fault, log 8), not the source's. -/
def Obligations.KeyIndexAboveFifteenRaises : Prop :=
  ∀ (x : Reg) (s : State), 15 < (s.reg x).toNat →
    (∃ t, exec (.skp x) s = .next t ∧ OnlyRaises .keyIndexRange (BitVec.ofNat 16 (s.reg x).toNat) s t) ∧
    (∃ t, exec (.sknp x) s = .next t ∧ OnlyRaises .keyIndexRange (BitVec.ofNat 16 (s.reg x).toNat) s t)

/-- LD Vx, K (44_keypad_timers.md R223): with a key down it completes at once with the index of a pressed key; with none down
it enters `WAIT_KEY` and moves neither PC nor anything else. That it tests the level is the spec's decision D9 (log 9). Which
pressed key is in LowestKeyIsReported. -/
def Obligations.KeyWaitCompletesOrWaits : Prop :=
  ∀ (x : Reg) (s : State),
    (s.keys ≠ 0 → ∃ t k, exec (.ldVxK x) s = .next t ∧ s.keys.getLsbD k = true ∧ t.reg x = BitVec.ofNat 8 k ∧
      t.pc = s.pc + 2#16 ∧ UnchangedExcept [x] [] s t) ∧
    (s.keys = 0 → ∃ t, exec (.ldVxK x) s = .next t ∧ t.mode = .waitKey ∧ t.waitReg = x ∧ t.pc = s.pc ∧
      UnchangedExcept [] [.mode, .waitReg] s t)

/-- LD Vx, K with several keys down reports the lowest. This is the spec's decision D9 (KEYWAIT_PICK = lowest, log 9). -/
def Obligations.LowestKeyIsReported : Prop :=
  ∀ (x : Reg) (s : State) (k : Nat), s.keys.getLsbD k = true → (∀ j, j < k → s.keys.getLsbD j = false) →
    ∃ t, exec (.ldVxK x) s = .next t ∧ t.reg x = BitVec.ofNat 8 k

/-- LD Vx, DT; LD DT, Vx; LD ST, Vx (44_keypad_timers.md R225, R226, R227). -/
def Obligations.TimerAccess : Prop :=
  ∀ (x : Reg) (s : State),
    (∃ t, exec (.ldVxDt x) s = .next t ∧ t.reg x = s.dt ∧ t.pc = s.pc + 2#16 ∧ UnchangedExcept [x] [] s t) ∧
    (∃ t, exec (.ldDtVx x) s = .next t ∧ t.dt = s.reg x ∧ t.pc = s.pc + 2#16 ∧ UnchangedExcept [] [.delay] s t) ∧
    (∃ t, exec (.ldStVx x) s = .next t ∧ t.st = s.reg x ∧ t.pc = s.pc + 2#16 ∧ UnchangedExcept [] [.sound] s t)

/-! ## The whole machine -/

/-- The frame of every instruction: it writes no general register other than as the table of 10_state.md R23 says, no other part
of the state than those the rules of 10_state.md give it (R24, R26 to R31), nothing of the host's side but the counter of free
values for RND (log 3), and no byte of memory outside those it stores to: I to I + 2 for LD B and I to I + x for LD [I] (20_memory.md
R65). The spec derives the table; D27 and D28 are its inferences (log 20). -/
def Obligations.EveryInstructionKeepsItsFrame : Prop :=
  ∀ (i : Instr) (s t : State), exec i s = .next t →
    UnchangedExcept (writtenRegs i) (writtenParts i) s t ∧ ∀ a, a ∉ storedAddrs i s → t.byte a = s.byte a

/-- PC after any instruction that neither faults nor waits is as the table of 40_cycle_control.md R122 says. -/
def Obligations.PcEffectsAsTheTableSays : Prop :=
  ∀ (i : Instr) (s t : State), s.mode = .run → exec i s = .next t → t.mode = .run → t.pc ∈ pcAfter i s

/-- After a flag-writing instruction that does not fault VF is 0 or 1 (10_state.md R40). With x = 15 this rests on decision D6
(log 7). -/
def Obligations.FlagIsZeroOrOne : Prop :=
  ∀ (i : Instr) (s t : State), exec i s = .next t → s.mode ≠ .halt → t.mode ≠ .halt →
    (∃ x y, i = .addReg x y ∨ i = .sub x y ∨ i = .subn x y ∨ i = .shr x y ∨ i = .shl x y ∨ i = .addI x ∨
      ∃ n, i = .drw x y n) →
    t.reg VF = 0 ∨ t.reg VF = 1

/-! ## Invariants -/

/-- The invariant of 10_state.md R37 is kept by every step from every state that has it. -/
def Obligations.StepKeepsTheInvariant : Prop :=
  ∀ s t : State, Invariant s → step s = .next t → Invariant t

/-- The state after reset has the invariant (10_state.md R37) and the memory form, whatever the host's side holds. The memory list and
its canonical form are the model's (DESIGN CHOICE, log 18). -/
def Obligations.ResetHasTheInvariant : Prop :=
  ∀ (s : State) (image : List Byte), Invariant (s.resetWith image) ∧ MemoryInForm (s.resetWith image)

/-- The canonical form of the memory list is kept by every step from every state that has it. The list and its form are the model's
(DESIGN CHOICE, log 18), not the spec's. -/
def Obligations.StepKeepsTheMemoryForm : Prop :=
  ∀ s t : State, MemoryInForm s → step s = .next t → MemoryInForm t

/-- 10_state.md R37 itself, from StepKeepsTheInvariant and ResetHasTheInvariant: the invariant holds in every state that any schedule of the host's events reaches from reset. -/
def Obligations.EverySchedulesStatesHaveTheInvariant : Prop :=
  ∀ (script : List HostEvent) (k : Nat) (t : State),
    Host.Core.run Sys2Proof.core k (State.reset.setScript script) = .next t → Invariant t
end

