-- ==== Sys2Proof/Laws/Decode.lean ====
section
/-! SUPPORT. Laws/Decode.lean: each field of a packed word is the field that was packed (30_encoding.md R91, R92), and a word is
its two bytes (20_memory.md R62). -/

namespace Sys2Proof

/-- A field that lies wholly in the low part of a concatenation. -/
theorem extract_append_low {m n : Nat} (a : BitVec m) (b : BitVec n) (start len : Nat) (h : start + len ≤ n) :
    (a ++ b).extractLsb' start len = b.extractLsb' start len := by
  apply BitVec.eq_of_getLsbD_eq
  intro k hk
  simp only [BitVec.getLsbD_extractLsb', BitVec.getLsbD_append, hk, decide_true, Bool.true_and]
  rw [if_pos (by omega)]

/-- A field that lies wholly in the high part. -/
theorem extract_append_high {m n : Nat} (a : BitVec m) (b : BitVec n) (start len : Nat) (h : n ≤ start) :
    (a ++ b).extractLsb' start len = a.extractLsb' (start - n) len := by
  apply BitVec.eq_of_getLsbD_eq
  intro k hk
  simp only [BitVec.getLsbD_extractLsb', BitVec.getLsbD_append, hk, decide_true, Bool.true_and]
  rw [if_neg (by omega), show start + k - n = start - n + k by omega]

/-- The whole of a bit vector as a field of itself. -/
theorem extract_all {n : Nat} (a : BitVec n) : a.extractLsb' 0 n = a := by
  simp

@[simp] theorem fieldN3_packNNN (m : Nibble) (nnn : Addr) : fieldN3 (packNNN m nnn) = m := by
  unfold fieldN3 packNNN; rw [extract_append_high _ _ _ _ (by omega)]; exact extract_all m
@[simp] theorem fieldNNN_packNNN (m : Nibble) (nnn : Addr) : fieldNNN (packNNN m nnn) = nnn := by
  unfold fieldNNN packNNN; rw [extract_append_low _ _ _ _ (by omega)]; exact extract_all nnn

@[simp] theorem fieldN3_packXNN (m : Nibble) (x : Reg) (nn : Byte) : fieldN3 (packXNN m x nn) = m := by
  unfold fieldN3 packXNN; rw [extract_append_high _ _ _ _ (by omega)]; exact extract_all m
@[simp] theorem fieldX_packXNN (m : Nibble) (x : Reg) (nn : Byte) : fieldX (packXNN m x nn) = x := by
  unfold fieldX packXNN
  rw [extract_append_low _ _ _ _ (by omega), extract_append_high _ _ _ _ (by omega)]; exact extract_all x
@[simp] theorem fieldNN_packXNN (m : Nibble) (x : Reg) (nn : Byte) : fieldNN (packXNN m x nn) = nn := by
  unfold fieldNN packXNN
  rw [extract_append_low _ _ _ _ (by omega), extract_append_low _ _ _ _ (by omega)]; exact extract_all nn

@[simp] theorem fieldN3_packXYN (m : Nibble) (x y : Reg) (n : Nibble) : fieldN3 (packXYN m x y n) = m := by
  unfold fieldN3 packXYN; rw [extract_append_high _ _ _ _ (by omega)]; exact extract_all m
@[simp] theorem fieldX_packXYN (m : Nibble) (x y : Reg) (n : Nibble) : fieldX (packXYN m x y n) = x := by
  unfold fieldX packXYN
  rw [extract_append_low _ _ _ _ (by omega), extract_append_high _ _ _ _ (by omega)]; exact extract_all x
@[simp] theorem fieldY_packXYN (m : Nibble) (x y : Reg) (n : Nibble) : fieldY (packXYN m x y n) = y := by
  unfold fieldY packXYN
  rw [extract_append_low _ _ _ _ (by omega), extract_append_low _ _ _ _ (by omega),
    extract_append_high _ _ _ _ (by omega)]
  exact extract_all y
@[simp] theorem fieldN0_packXYN (m : Nibble) (x y : Reg) (n : Nibble) : fieldN0 (packXYN m x y n) = n := by
  unfold fieldN0 packXYN
  rw [extract_append_low _ _ _ _ (by omega), extract_append_low _ _ _ _ (by omega),
    extract_append_low _ _ _ _ (by omega)]
  exact extract_all n

/-- A word is its fields, format by format. -/
theorem packNNN_fields (w : Word) : packNNN (fieldN3 w) (fieldNNN w) = w := by
  apply BitVec.eq_of_getLsbD_eq
  intro k hk
  simp only [packNNN, fieldN3, fieldNNN, BitVec.getLsbD_append, BitVec.getLsbD_extractLsb']
  split
  · simp_all
  · rw [show 12 + (k - 12) = k by omega]; simp; omega
theorem packXNN_fields (w : Word) : packXNN (fieldN3 w) (fieldX w) (fieldNN w) = w := by
  apply BitVec.eq_of_getLsbD_eq
  intro k hk
  simp only [packXNN, fieldN3, fieldX, fieldNN, BitVec.getLsbD_append, BitVec.getLsbD_extractLsb']
  by_cases h8 : k < 8
  · simp [h8, show k < 4 + 8 by omega]
  · by_cases h12 : k < 4 + 8
    · simp [h8, h12, show k - 8 < 4 by omega, show 8 + (k - 8) = k by omega]
    · rw [if_neg h12, show 12 + (k - (4 + 8)) = k by omega]; simp; omega
theorem packXYN_fields (w : Word) : packXYN (fieldN3 w) (fieldX w) (fieldY w) (fieldN0 w) = w := by
  apply BitVec.eq_of_getLsbD_eq
  intro k hk
  simp only [packXYN, fieldN3, fieldX, fieldY, fieldN0, BitVec.getLsbD_append, BitVec.getLsbD_extractLsb']
  by_cases h4 : k < 4
  · simp [h4, show k < 4 + (4 + 4) by omega, show k < 4 + 4 by omega]
  · by_cases h8 : k < 4 + 4
    · simp [h4, h8, show k < 4 + (4 + 4) by omega, show k - 4 < 4 by omega, show 4 + (k - 4) = k by omega]
    · by_cases h12 : k < 4 + (4 + 4)
      · simp [h8, h12, show k - (4 + 4) < 4 by omega, show 8 + (k - (4 + 4)) = k by omega]
      · rw [if_neg h12, show 12 + (k - (4 + (4 + 4))) = k by omega]; simp; omega

/-- A word is its two bytes. -/
@[simp] theorem wordOf_bytes (w : Word) : wordOf (highByte w) (lowByte w) = w := by
  apply BitVec.eq_of_getLsbD_eq
  intro k hk
  simp only [wordOf, highByte, lowByte, BitVec.getLsbD_append, BitVec.getLsbD_extractLsb']
  by_cases h8 : k < 8
  · simp [h8]
  · simp [h8, show k - 8 < 8 by omega, show 8 + (k - 8) = k by omega]
@[simp] theorem highByte_wordOf (h l : Byte) : highByte (wordOf h l) = h := by
  unfold highByte wordOf; rw [extract_append_high _ _ _ _ (by omega)]; exact extract_all h
@[simp] theorem lowByte_wordOf (h l : Byte) : lowByte (wordOf h l) = l := by
  unfold lowByte wordOf; rw [extract_append_low _ _ _ _ (by omega)]; exact extract_all l

/-- A word's number, given back by `tableWord` on 16 bits, is that word. -/
@[simp] theorem tableWord_toNat (w : Word) : tableWord 16 w.toNat = w := by
  apply BitVec.eq_of_toNat_eq
  have := w.isLt
  simp only [tableWord, BitVec.toNat_ofNat]; omega

end Sys2Proof
end

