-- ==== Sys2Proof/Laws/State.lean ====
section
/-! SUPPORT. Laws/State.lean: for every update of State, one lemma per field and one per observer (register, byte, pixel, stack
slot), true by rfl; what each composite update is in terms of the plain ones; and what the non-trivial observers read back. -/

namespace Sys2Proof.Machine

/-! ### The numbers the operations read from the parameters -/

theorem params_memSize : params.memSize = 4096 := rfl
theorem params_progBase : params.progBase = 0x200 := rfl
theorem params_maxImage : params.maxImage = 3584 := rfl
theorem params_numKeys : params.numKeys = 16 := rfl
theorem params_glyphBytes : params.glyphBytes = 5 := rfl
theorem params_fx1eLimit : params.fx1eLimit = 0x1000 := rfl

variable (s : State)

/-! ### setReg -/

@[simp] theorem State.setReg_i (x : Reg) (b : Byte) : (s.setReg x b).i = s.i := rfl
@[simp] theorem State.setReg_pc (x : Reg) (b : Byte) : (s.setReg x b).pc = s.pc := rfl
@[simp] theorem State.setReg_stack (x : Reg) (b : Byte) : (s.setReg x b).stack = s.stack := rfl
@[simp] theorem State.setReg_sp (x : Reg) (b : Byte) : (s.setReg x b).sp = s.sp := rfl
@[simp] theorem State.setReg_dt (x : Reg) (b : Byte) : (s.setReg x b).dt = s.dt := rfl
@[simp] theorem State.setReg_st (x : Reg) (b : Byte) : (s.setReg x b).st = s.st := rfl
@[simp] theorem State.setReg_mem (x : Reg) (b : Byte) : (s.setReg x b).mem = s.mem := rfl
@[simp] theorem State.setReg_fb (x : Reg) (b : Byte) : (s.setReg x b).fb = s.fb := rfl
@[simp] theorem State.setReg_mode (x : Reg) (b : Byte) : (s.setReg x b).mode = s.mode := rfl
@[simp] theorem State.setReg_waitReg (x : Reg) (b : Byte) : (s.setReg x b).waitReg = s.waitReg := rfl
@[simp] theorem State.setReg_faultCause (x : Reg) (b : Byte) : (s.setReg x b).faultCause = s.faultCause := rfl
@[simp] theorem State.setReg_faultInfo (x : Reg) (b : Byte) : (s.setReg x b).faultInfo = s.faultInfo := rfl
@[simp] theorem State.setReg_faultPc (x : Reg) (b : Byte) : (s.setReg x b).faultPc = s.faultPc := rfl
@[simp] theorem State.setReg_keys (x : Reg) (b : Byte) : (s.setReg x b).keys = s.keys := rfl
@[simp] theorem State.setReg_script (x : Reg) (b : Byte) : (s.setReg x b).script = s.script := rfl
@[simp] theorem State.setReg_draws (x : Reg) (b : Byte) : (s.setReg x b).draws = s.draws := rfl
@[simp] theorem State.setReg_byte (x : Reg) (b : Byte) (n : Nat) : (s.setReg x b).byte n = s.byte n := rfl
@[simp] theorem State.setReg_pixel (x : Reg) (b : Byte) (r : Fin 32) (c : Fin 64) : (s.setReg x b).pixel r c = s.pixel r c := rfl
@[simp] theorem State.setReg_slot (x : Reg) (b : Byte) (j : Nat) : (s.setReg x b).slot j = s.slot j := rfl

/-! ### setI -/

@[simp] theorem State.setI_v (a : Word) : (s.setI a).v = s.v := rfl
@[simp] theorem State.setI_i (a : Word) : (s.setI a).i = a := rfl
@[simp] theorem State.setI_pc (a : Word) : (s.setI a).pc = s.pc := rfl
@[simp] theorem State.setI_stack (a : Word) : (s.setI a).stack = s.stack := rfl
@[simp] theorem State.setI_sp (a : Word) : (s.setI a).sp = s.sp := rfl
@[simp] theorem State.setI_dt (a : Word) : (s.setI a).dt = s.dt := rfl
@[simp] theorem State.setI_st (a : Word) : (s.setI a).st = s.st := rfl
@[simp] theorem State.setI_mem (a : Word) : (s.setI a).mem = s.mem := rfl
@[simp] theorem State.setI_fb (a : Word) : (s.setI a).fb = s.fb := rfl
@[simp] theorem State.setI_mode (a : Word) : (s.setI a).mode = s.mode := rfl
@[simp] theorem State.setI_waitReg (a : Word) : (s.setI a).waitReg = s.waitReg := rfl
@[simp] theorem State.setI_faultCause (a : Word) : (s.setI a).faultCause = s.faultCause := rfl
@[simp] theorem State.setI_faultInfo (a : Word) : (s.setI a).faultInfo = s.faultInfo := rfl
@[simp] theorem State.setI_faultPc (a : Word) : (s.setI a).faultPc = s.faultPc := rfl
@[simp] theorem State.setI_keys (a : Word) : (s.setI a).keys = s.keys := rfl
@[simp] theorem State.setI_script (a : Word) : (s.setI a).script = s.script := rfl
@[simp] theorem State.setI_draws (a : Word) : (s.setI a).draws = s.draws := rfl
@[simp] theorem State.setI_reg (a : Word) (r : Reg) : (s.setI a).reg r = s.reg r := rfl
@[simp] theorem State.setI_byte (a : Word) (n : Nat) : (s.setI a).byte n = s.byte n := rfl
@[simp] theorem State.setI_pixel (a : Word) (r : Fin 32) (c : Fin 64) : (s.setI a).pixel r c = s.pixel r c := rfl
@[simp] theorem State.setI_slot (a : Word) (j : Nat) : (s.setI a).slot j = s.slot j := rfl

/-! ### setPc -/

@[simp] theorem State.setPc_v (a : Word) : (s.setPc a).v = s.v := rfl
@[simp] theorem State.setPc_i (a : Word) : (s.setPc a).i = s.i := rfl
@[simp] theorem State.setPc_pc (a : Word) : (s.setPc a).pc = a := rfl
@[simp] theorem State.setPc_stack (a : Word) : (s.setPc a).stack = s.stack := rfl
@[simp] theorem State.setPc_sp (a : Word) : (s.setPc a).sp = s.sp := rfl
@[simp] theorem State.setPc_dt (a : Word) : (s.setPc a).dt = s.dt := rfl
@[simp] theorem State.setPc_st (a : Word) : (s.setPc a).st = s.st := rfl
@[simp] theorem State.setPc_mem (a : Word) : (s.setPc a).mem = s.mem := rfl
@[simp] theorem State.setPc_fb (a : Word) : (s.setPc a).fb = s.fb := rfl
@[simp] theorem State.setPc_mode (a : Word) : (s.setPc a).mode = s.mode := rfl
@[simp] theorem State.setPc_waitReg (a : Word) : (s.setPc a).waitReg = s.waitReg := rfl
@[simp] theorem State.setPc_faultCause (a : Word) : (s.setPc a).faultCause = s.faultCause := rfl
@[simp] theorem State.setPc_faultInfo (a : Word) : (s.setPc a).faultInfo = s.faultInfo := rfl
@[simp] theorem State.setPc_faultPc (a : Word) : (s.setPc a).faultPc = s.faultPc := rfl
@[simp] theorem State.setPc_keys (a : Word) : (s.setPc a).keys = s.keys := rfl
@[simp] theorem State.setPc_script (a : Word) : (s.setPc a).script = s.script := rfl
@[simp] theorem State.setPc_draws (a : Word) : (s.setPc a).draws = s.draws := rfl
@[simp] theorem State.setPc_reg (a : Word) (r : Reg) : (s.setPc a).reg r = s.reg r := rfl
@[simp] theorem State.setPc_byte (a : Word) (n : Nat) : (s.setPc a).byte n = s.byte n := rfl
@[simp] theorem State.setPc_pixel (a : Word) (r : Fin 32) (c : Fin 64) : (s.setPc a).pixel r c = s.pixel r c := rfl
@[simp] theorem State.setPc_slot (a : Word) (j : Nat) : (s.setPc a).slot j = s.slot j := rfl

/-! ### setDt -/

@[simp] theorem State.setDt_v (b : Byte) : (s.setDt b).v = s.v := rfl
@[simp] theorem State.setDt_i (b : Byte) : (s.setDt b).i = s.i := rfl
@[simp] theorem State.setDt_pc (b : Byte) : (s.setDt b).pc = s.pc := rfl
@[simp] theorem State.setDt_stack (b : Byte) : (s.setDt b).stack = s.stack := rfl
@[simp] theorem State.setDt_sp (b : Byte) : (s.setDt b).sp = s.sp := rfl
@[simp] theorem State.setDt_dt (b : Byte) : (s.setDt b).dt = b := rfl
@[simp] theorem State.setDt_st (b : Byte) : (s.setDt b).st = s.st := rfl
@[simp] theorem State.setDt_mem (b : Byte) : (s.setDt b).mem = s.mem := rfl
@[simp] theorem State.setDt_fb (b : Byte) : (s.setDt b).fb = s.fb := rfl
@[simp] theorem State.setDt_mode (b : Byte) : (s.setDt b).mode = s.mode := rfl
@[simp] theorem State.setDt_waitReg (b : Byte) : (s.setDt b).waitReg = s.waitReg := rfl
@[simp] theorem State.setDt_faultCause (b : Byte) : (s.setDt b).faultCause = s.faultCause := rfl
@[simp] theorem State.setDt_faultInfo (b : Byte) : (s.setDt b).faultInfo = s.faultInfo := rfl
@[simp] theorem State.setDt_faultPc (b : Byte) : (s.setDt b).faultPc = s.faultPc := rfl
@[simp] theorem State.setDt_keys (b : Byte) : (s.setDt b).keys = s.keys := rfl
@[simp] theorem State.setDt_script (b : Byte) : (s.setDt b).script = s.script := rfl
@[simp] theorem State.setDt_draws (b : Byte) : (s.setDt b).draws = s.draws := rfl
@[simp] theorem State.setDt_reg (b : Byte) (r : Reg) : (s.setDt b).reg r = s.reg r := rfl
@[simp] theorem State.setDt_byte (b : Byte) (n : Nat) : (s.setDt b).byte n = s.byte n := rfl
@[simp] theorem State.setDt_pixel (b : Byte) (r : Fin 32) (c : Fin 64) : (s.setDt b).pixel r c = s.pixel r c := rfl
@[simp] theorem State.setDt_slot (b : Byte) (j : Nat) : (s.setDt b).slot j = s.slot j := rfl

/-! ### setSt -/

@[simp] theorem State.setSt_v (b : Byte) : (s.setSt b).v = s.v := rfl
@[simp] theorem State.setSt_i (b : Byte) : (s.setSt b).i = s.i := rfl
@[simp] theorem State.setSt_pc (b : Byte) : (s.setSt b).pc = s.pc := rfl
@[simp] theorem State.setSt_stack (b : Byte) : (s.setSt b).stack = s.stack := rfl
@[simp] theorem State.setSt_sp (b : Byte) : (s.setSt b).sp = s.sp := rfl
@[simp] theorem State.setSt_dt (b : Byte) : (s.setSt b).dt = s.dt := rfl
@[simp] theorem State.setSt_st (b : Byte) : (s.setSt b).st = b := rfl
@[simp] theorem State.setSt_mem (b : Byte) : (s.setSt b).mem = s.mem := rfl
@[simp] theorem State.setSt_fb (b : Byte) : (s.setSt b).fb = s.fb := rfl
@[simp] theorem State.setSt_mode (b : Byte) : (s.setSt b).mode = s.mode := rfl
@[simp] theorem State.setSt_waitReg (b : Byte) : (s.setSt b).waitReg = s.waitReg := rfl
@[simp] theorem State.setSt_faultCause (b : Byte) : (s.setSt b).faultCause = s.faultCause := rfl
@[simp] theorem State.setSt_faultInfo (b : Byte) : (s.setSt b).faultInfo = s.faultInfo := rfl
@[simp] theorem State.setSt_faultPc (b : Byte) : (s.setSt b).faultPc = s.faultPc := rfl
@[simp] theorem State.setSt_keys (b : Byte) : (s.setSt b).keys = s.keys := rfl
@[simp] theorem State.setSt_script (b : Byte) : (s.setSt b).script = s.script := rfl
@[simp] theorem State.setSt_draws (b : Byte) : (s.setSt b).draws = s.draws := rfl
@[simp] theorem State.setSt_reg (b : Byte) (r : Reg) : (s.setSt b).reg r = s.reg r := rfl
@[simp] theorem State.setSt_byte (b : Byte) (n : Nat) : (s.setSt b).byte n = s.byte n := rfl
@[simp] theorem State.setSt_pixel (b : Byte) (r : Fin 32) (c : Fin 64) : (s.setSt b).pixel r c = s.pixel r c := rfl
@[simp] theorem State.setSt_slot (b : Byte) (j : Nat) : (s.setSt b).slot j = s.slot j := rfl

/-! ### setMode -/

@[simp] theorem State.setMode_v (m : Mode) : (s.setMode m).v = s.v := rfl
@[simp] theorem State.setMode_i (m : Mode) : (s.setMode m).i = s.i := rfl
@[simp] theorem State.setMode_pc (m : Mode) : (s.setMode m).pc = s.pc := rfl
@[simp] theorem State.setMode_stack (m : Mode) : (s.setMode m).stack = s.stack := rfl
@[simp] theorem State.setMode_sp (m : Mode) : (s.setMode m).sp = s.sp := rfl
@[simp] theorem State.setMode_dt (m : Mode) : (s.setMode m).dt = s.dt := rfl
@[simp] theorem State.setMode_st (m : Mode) : (s.setMode m).st = s.st := rfl
@[simp] theorem State.setMode_mem (m : Mode) : (s.setMode m).mem = s.mem := rfl
@[simp] theorem State.setMode_fb (m : Mode) : (s.setMode m).fb = s.fb := rfl
@[simp] theorem State.setMode_mode (m : Mode) : (s.setMode m).mode = m := rfl
@[simp] theorem State.setMode_waitReg (m : Mode) : (s.setMode m).waitReg = s.waitReg := rfl
@[simp] theorem State.setMode_faultCause (m : Mode) : (s.setMode m).faultCause = s.faultCause := rfl
@[simp] theorem State.setMode_faultInfo (m : Mode) : (s.setMode m).faultInfo = s.faultInfo := rfl
@[simp] theorem State.setMode_faultPc (m : Mode) : (s.setMode m).faultPc = s.faultPc := rfl
@[simp] theorem State.setMode_keys (m : Mode) : (s.setMode m).keys = s.keys := rfl
@[simp] theorem State.setMode_script (m : Mode) : (s.setMode m).script = s.script := rfl
@[simp] theorem State.setMode_draws (m : Mode) : (s.setMode m).draws = s.draws := rfl
@[simp] theorem State.setMode_reg (m : Mode) (r : Reg) : (s.setMode m).reg r = s.reg r := rfl
@[simp] theorem State.setMode_byte (m : Mode) (n : Nat) : (s.setMode m).byte n = s.byte n := rfl
@[simp] theorem State.setMode_pixel (m : Mode) (r : Fin 32) (c : Fin 64) : (s.setMode m).pixel r c = s.pixel r c := rfl
@[simp] theorem State.setMode_slot (m : Mode) (j : Nat) : (s.setMode m).slot j = s.slot j := rfl

/-! ### setWaitReg -/

@[simp] theorem State.setWaitReg_v (x : Reg) : (s.setWaitReg x).v = s.v := rfl
@[simp] theorem State.setWaitReg_i (x : Reg) : (s.setWaitReg x).i = s.i := rfl
@[simp] theorem State.setWaitReg_pc (x : Reg) : (s.setWaitReg x).pc = s.pc := rfl
@[simp] theorem State.setWaitReg_stack (x : Reg) : (s.setWaitReg x).stack = s.stack := rfl
@[simp] theorem State.setWaitReg_sp (x : Reg) : (s.setWaitReg x).sp = s.sp := rfl
@[simp] theorem State.setWaitReg_dt (x : Reg) : (s.setWaitReg x).dt = s.dt := rfl
@[simp] theorem State.setWaitReg_st (x : Reg) : (s.setWaitReg x).st = s.st := rfl
@[simp] theorem State.setWaitReg_mem (x : Reg) : (s.setWaitReg x).mem = s.mem := rfl
@[simp] theorem State.setWaitReg_fb (x : Reg) : (s.setWaitReg x).fb = s.fb := rfl
@[simp] theorem State.setWaitReg_mode (x : Reg) : (s.setWaitReg x).mode = s.mode := rfl
@[simp] theorem State.setWaitReg_waitReg (x : Reg) : (s.setWaitReg x).waitReg = x := rfl
@[simp] theorem State.setWaitReg_faultCause (x : Reg) : (s.setWaitReg x).faultCause = s.faultCause := rfl
@[simp] theorem State.setWaitReg_faultInfo (x : Reg) : (s.setWaitReg x).faultInfo = s.faultInfo := rfl
@[simp] theorem State.setWaitReg_faultPc (x : Reg) : (s.setWaitReg x).faultPc = s.faultPc := rfl
@[simp] theorem State.setWaitReg_keys (x : Reg) : (s.setWaitReg x).keys = s.keys := rfl
@[simp] theorem State.setWaitReg_script (x : Reg) : (s.setWaitReg x).script = s.script := rfl
@[simp] theorem State.setWaitReg_draws (x : Reg) : (s.setWaitReg x).draws = s.draws := rfl
@[simp] theorem State.setWaitReg_reg (x : Reg) (r : Reg) : (s.setWaitReg x).reg r = s.reg r := rfl
@[simp] theorem State.setWaitReg_byte (x : Reg) (n : Nat) : (s.setWaitReg x).byte n = s.byte n := rfl
@[simp] theorem State.setWaitReg_pixel (x : Reg) (r : Fin 32) (c : Fin 64) : (s.setWaitReg x).pixel r c = s.pixel r c := rfl
@[simp] theorem State.setWaitReg_slot (x : Reg) (j : Nat) : (s.setWaitReg x).slot j = s.slot j := rfl

/-! ### setMem -/

@[simp] theorem State.setMem_v (m : Memory) : (s.setMem m).v = s.v := rfl
@[simp] theorem State.setMem_i (m : Memory) : (s.setMem m).i = s.i := rfl
@[simp] theorem State.setMem_pc (m : Memory) : (s.setMem m).pc = s.pc := rfl
@[simp] theorem State.setMem_stack (m : Memory) : (s.setMem m).stack = s.stack := rfl
@[simp] theorem State.setMem_sp (m : Memory) : (s.setMem m).sp = s.sp := rfl
@[simp] theorem State.setMem_dt (m : Memory) : (s.setMem m).dt = s.dt := rfl
@[simp] theorem State.setMem_st (m : Memory) : (s.setMem m).st = s.st := rfl
@[simp] theorem State.setMem_mem (m : Memory) : (s.setMem m).mem = m := rfl
@[simp] theorem State.setMem_fb (m : Memory) : (s.setMem m).fb = s.fb := rfl
@[simp] theorem State.setMem_mode (m : Memory) : (s.setMem m).mode = s.mode := rfl
@[simp] theorem State.setMem_waitReg (m : Memory) : (s.setMem m).waitReg = s.waitReg := rfl
@[simp] theorem State.setMem_faultCause (m : Memory) : (s.setMem m).faultCause = s.faultCause := rfl
@[simp] theorem State.setMem_faultInfo (m : Memory) : (s.setMem m).faultInfo = s.faultInfo := rfl
@[simp] theorem State.setMem_faultPc (m : Memory) : (s.setMem m).faultPc = s.faultPc := rfl
@[simp] theorem State.setMem_keys (m : Memory) : (s.setMem m).keys = s.keys := rfl
@[simp] theorem State.setMem_script (m : Memory) : (s.setMem m).script = s.script := rfl
@[simp] theorem State.setMem_draws (m : Memory) : (s.setMem m).draws = s.draws := rfl
@[simp] theorem State.setMem_reg (m : Memory) (r : Reg) : (s.setMem m).reg r = s.reg r := rfl
@[simp] theorem State.setMem_pixel (m : Memory) (r : Fin 32) (c : Fin 64) : (s.setMem m).pixel r c = s.pixel r c := rfl
@[simp] theorem State.setMem_slot (m : Memory) (j : Nat) : (s.setMem m).slot j = s.slot j := rfl

/-! ### setFb -/

@[simp] theorem State.setFb_v (f : FrameBuffer) : (s.setFb f).v = s.v := rfl
@[simp] theorem State.setFb_i (f : FrameBuffer) : (s.setFb f).i = s.i := rfl
@[simp] theorem State.setFb_pc (f : FrameBuffer) : (s.setFb f).pc = s.pc := rfl
@[simp] theorem State.setFb_stack (f : FrameBuffer) : (s.setFb f).stack = s.stack := rfl
@[simp] theorem State.setFb_sp (f : FrameBuffer) : (s.setFb f).sp = s.sp := rfl
@[simp] theorem State.setFb_dt (f : FrameBuffer) : (s.setFb f).dt = s.dt := rfl
@[simp] theorem State.setFb_st (f : FrameBuffer) : (s.setFb f).st = s.st := rfl
@[simp] theorem State.setFb_mem (f : FrameBuffer) : (s.setFb f).mem = s.mem := rfl
@[simp] theorem State.setFb_fb (f : FrameBuffer) : (s.setFb f).fb = f := rfl
@[simp] theorem State.setFb_mode (f : FrameBuffer) : (s.setFb f).mode = s.mode := rfl
@[simp] theorem State.setFb_waitReg (f : FrameBuffer) : (s.setFb f).waitReg = s.waitReg := rfl
@[simp] theorem State.setFb_faultCause (f : FrameBuffer) : (s.setFb f).faultCause = s.faultCause := rfl
@[simp] theorem State.setFb_faultInfo (f : FrameBuffer) : (s.setFb f).faultInfo = s.faultInfo := rfl
@[simp] theorem State.setFb_faultPc (f : FrameBuffer) : (s.setFb f).faultPc = s.faultPc := rfl
@[simp] theorem State.setFb_keys (f : FrameBuffer) : (s.setFb f).keys = s.keys := rfl
@[simp] theorem State.setFb_script (f : FrameBuffer) : (s.setFb f).script = s.script := rfl
@[simp] theorem State.setFb_draws (f : FrameBuffer) : (s.setFb f).draws = s.draws := rfl
@[simp] theorem State.setFb_reg (f : FrameBuffer) (r : Reg) : (s.setFb f).reg r = s.reg r := rfl
@[simp] theorem State.setFb_byte (f : FrameBuffer) (n : Nat) : (s.setFb f).byte n = s.byte n := rfl
@[simp] theorem State.setFb_slot (f : FrameBuffer) (j : Nat) : (s.setFb f).slot j = s.slot j := rfl

/-! ### countDraw -/

@[simp] theorem State.countDraw_v : (s.countDraw).v = s.v := rfl
@[simp] theorem State.countDraw_i : (s.countDraw).i = s.i := rfl
@[simp] theorem State.countDraw_pc : (s.countDraw).pc = s.pc := rfl
@[simp] theorem State.countDraw_stack : (s.countDraw).stack = s.stack := rfl
@[simp] theorem State.countDraw_sp : (s.countDraw).sp = s.sp := rfl
@[simp] theorem State.countDraw_dt : (s.countDraw).dt = s.dt := rfl
@[simp] theorem State.countDraw_st : (s.countDraw).st = s.st := rfl
@[simp] theorem State.countDraw_mem : (s.countDraw).mem = s.mem := rfl
@[simp] theorem State.countDraw_fb : (s.countDraw).fb = s.fb := rfl
@[simp] theorem State.countDraw_mode : (s.countDraw).mode = s.mode := rfl
@[simp] theorem State.countDraw_waitReg : (s.countDraw).waitReg = s.waitReg := rfl
@[simp] theorem State.countDraw_faultCause : (s.countDraw).faultCause = s.faultCause := rfl
@[simp] theorem State.countDraw_faultInfo : (s.countDraw).faultInfo = s.faultInfo := rfl
@[simp] theorem State.countDraw_faultPc : (s.countDraw).faultPc = s.faultPc := rfl
@[simp] theorem State.countDraw_keys : (s.countDraw).keys = s.keys := rfl
@[simp] theorem State.countDraw_script : (s.countDraw).script = s.script := rfl
@[simp] theorem State.countDraw_draws : (s.countDraw).draws = s.draws + 1 := rfl
@[simp] theorem State.countDraw_reg (r : Reg) : (s.countDraw).reg r = s.reg r := rfl
@[simp] theorem State.countDraw_byte (n : Nat) : (s.countDraw).byte n = s.byte n := rfl
@[simp] theorem State.countDraw_pixel (r : Fin 32) (c : Fin 64) : (s.countDraw).pixel r c = s.pixel r c := rfl
@[simp] theorem State.countDraw_slot (j : Nat) : (s.countDraw).slot j = s.slot j := rfl

/-! ### setKeys -/

@[simp] theorem State.setKeys_v (k : BitVec 16) : (s.setKeys k).v = s.v := rfl
@[simp] theorem State.setKeys_i (k : BitVec 16) : (s.setKeys k).i = s.i := rfl
@[simp] theorem State.setKeys_pc (k : BitVec 16) : (s.setKeys k).pc = s.pc := rfl
@[simp] theorem State.setKeys_stack (k : BitVec 16) : (s.setKeys k).stack = s.stack := rfl
@[simp] theorem State.setKeys_sp (k : BitVec 16) : (s.setKeys k).sp = s.sp := rfl
@[simp] theorem State.setKeys_dt (k : BitVec 16) : (s.setKeys k).dt = s.dt := rfl
@[simp] theorem State.setKeys_st (k : BitVec 16) : (s.setKeys k).st = s.st := rfl
@[simp] theorem State.setKeys_mem (k : BitVec 16) : (s.setKeys k).mem = s.mem := rfl
@[simp] theorem State.setKeys_fb (k : BitVec 16) : (s.setKeys k).fb = s.fb := rfl
@[simp] theorem State.setKeys_mode (k : BitVec 16) : (s.setKeys k).mode = s.mode := rfl
@[simp] theorem State.setKeys_waitReg (k : BitVec 16) : (s.setKeys k).waitReg = s.waitReg := rfl
@[simp] theorem State.setKeys_faultCause (k : BitVec 16) : (s.setKeys k).faultCause = s.faultCause := rfl
@[simp] theorem State.setKeys_faultInfo (k : BitVec 16) : (s.setKeys k).faultInfo = s.faultInfo := rfl
@[simp] theorem State.setKeys_faultPc (k : BitVec 16) : (s.setKeys k).faultPc = s.faultPc := rfl
@[simp] theorem State.setKeys_keys (k : BitVec 16) : (s.setKeys k).keys = k := rfl
@[simp] theorem State.setKeys_script (k : BitVec 16) : (s.setKeys k).script = s.script := rfl
@[simp] theorem State.setKeys_draws (k : BitVec 16) : (s.setKeys k).draws = s.draws := rfl
@[simp] theorem State.setKeys_reg (k : BitVec 16) (r : Reg) : (s.setKeys k).reg r = s.reg r := rfl
@[simp] theorem State.setKeys_byte (k : BitVec 16) (n : Nat) : (s.setKeys k).byte n = s.byte n := rfl
@[simp] theorem State.setKeys_pixel (k : BitVec 16) (r : Fin 32) (c : Fin 64) : (s.setKeys k).pixel r c = s.pixel r c := rfl
@[simp] theorem State.setKeys_slot (k : BitVec 16) (j : Nat) : (s.setKeys k).slot j = s.slot j := rfl

/-! ### setScript -/

@[simp] theorem State.setScript_v (l : List HostEvent) : (s.setScript l).v = s.v := rfl
@[simp] theorem State.setScript_i (l : List HostEvent) : (s.setScript l).i = s.i := rfl
@[simp] theorem State.setScript_pc (l : List HostEvent) : (s.setScript l).pc = s.pc := rfl
@[simp] theorem State.setScript_stack (l : List HostEvent) : (s.setScript l).stack = s.stack := rfl
@[simp] theorem State.setScript_sp (l : List HostEvent) : (s.setScript l).sp = s.sp := rfl
@[simp] theorem State.setScript_dt (l : List HostEvent) : (s.setScript l).dt = s.dt := rfl
@[simp] theorem State.setScript_st (l : List HostEvent) : (s.setScript l).st = s.st := rfl
@[simp] theorem State.setScript_mem (l : List HostEvent) : (s.setScript l).mem = s.mem := rfl
@[simp] theorem State.setScript_fb (l : List HostEvent) : (s.setScript l).fb = s.fb := rfl
@[simp] theorem State.setScript_mode (l : List HostEvent) : (s.setScript l).mode = s.mode := rfl
@[simp] theorem State.setScript_waitReg (l : List HostEvent) : (s.setScript l).waitReg = s.waitReg := rfl
@[simp] theorem State.setScript_faultCause (l : List HostEvent) : (s.setScript l).faultCause = s.faultCause := rfl
@[simp] theorem State.setScript_faultInfo (l : List HostEvent) : (s.setScript l).faultInfo = s.faultInfo := rfl
@[simp] theorem State.setScript_faultPc (l : List HostEvent) : (s.setScript l).faultPc = s.faultPc := rfl
@[simp] theorem State.setScript_keys (l : List HostEvent) : (s.setScript l).keys = s.keys := rfl
@[simp] theorem State.setScript_script (l : List HostEvent) : (s.setScript l).script = l := rfl
@[simp] theorem State.setScript_draws (l : List HostEvent) : (s.setScript l).draws = s.draws := rfl
@[simp] theorem State.setScript_reg (l : List HostEvent) (r : Reg) : (s.setScript l).reg r = s.reg r := rfl
@[simp] theorem State.setScript_byte (l : List HostEvent) (n : Nat) : (s.setScript l).byte n = s.byte n := rfl
@[simp] theorem State.setScript_pixel (l : List HostEvent) (r : Fin 32) (c : Fin 64) : (s.setScript l).pixel r c = s.pixel r c := rfl
@[simp] theorem State.setScript_slot (l : List HostEvent) (j : Nat) : (s.setScript l).slot j = s.slot j := rfl

/-! ### push -/

@[simp] theorem State.push_v (a : Word) (h : s.sp.val < 16) : (s.push a h).v = s.v := rfl
@[simp] theorem State.push_i (a : Word) (h : s.sp.val < 16) : (s.push a h).i = s.i := rfl
@[simp] theorem State.push_pc (a : Word) (h : s.sp.val < 16) : (s.push a h).pc = s.pc := rfl
@[simp] theorem State.push_dt (a : Word) (h : s.sp.val < 16) : (s.push a h).dt = s.dt := rfl
@[simp] theorem State.push_st (a : Word) (h : s.sp.val < 16) : (s.push a h).st = s.st := rfl
@[simp] theorem State.push_mem (a : Word) (h : s.sp.val < 16) : (s.push a h).mem = s.mem := rfl
@[simp] theorem State.push_fb (a : Word) (h : s.sp.val < 16) : (s.push a h).fb = s.fb := rfl
@[simp] theorem State.push_mode (a : Word) (h : s.sp.val < 16) : (s.push a h).mode = s.mode := rfl
@[simp] theorem State.push_waitReg (a : Word) (h : s.sp.val < 16) : (s.push a h).waitReg = s.waitReg := rfl
@[simp] theorem State.push_faultCause (a : Word) (h : s.sp.val < 16) : (s.push a h).faultCause = s.faultCause := rfl
@[simp] theorem State.push_faultInfo (a : Word) (h : s.sp.val < 16) : (s.push a h).faultInfo = s.faultInfo := rfl
@[simp] theorem State.push_faultPc (a : Word) (h : s.sp.val < 16) : (s.push a h).faultPc = s.faultPc := rfl
@[simp] theorem State.push_keys (a : Word) (h : s.sp.val < 16) : (s.push a h).keys = s.keys := rfl
@[simp] theorem State.push_script (a : Word) (h : s.sp.val < 16) : (s.push a h).script = s.script := rfl
@[simp] theorem State.push_draws (a : Word) (h : s.sp.val < 16) : (s.push a h).draws = s.draws := rfl
@[simp] theorem State.push_reg (a : Word) (h : s.sp.val < 16) (r : Reg) : (s.push a h).reg r = s.reg r := rfl
@[simp] theorem State.push_byte (a : Word) (h : s.sp.val < 16) (n : Nat) : (s.push a h).byte n = s.byte n := rfl
@[simp] theorem State.push_pixel (a : Word) (h : s.sp.val < 16) (r : Fin 32) (c : Fin 64) : (s.push a h).pixel r c = s.pixel r c := rfl

/-! ### pop -/

@[simp] theorem State.pop_v : (s.pop).v = s.v := rfl
@[simp] theorem State.pop_i : (s.pop).i = s.i := rfl
@[simp] theorem State.pop_pc : (s.pop).pc = s.pc := rfl
@[simp] theorem State.pop_stack : (s.pop).stack = s.stack := rfl
@[simp] theorem State.pop_dt : (s.pop).dt = s.dt := rfl
@[simp] theorem State.pop_st : (s.pop).st = s.st := rfl
@[simp] theorem State.pop_mem : (s.pop).mem = s.mem := rfl
@[simp] theorem State.pop_fb : (s.pop).fb = s.fb := rfl
@[simp] theorem State.pop_mode : (s.pop).mode = s.mode := rfl
@[simp] theorem State.pop_waitReg : (s.pop).waitReg = s.waitReg := rfl
@[simp] theorem State.pop_faultCause : (s.pop).faultCause = s.faultCause := rfl
@[simp] theorem State.pop_faultInfo : (s.pop).faultInfo = s.faultInfo := rfl
@[simp] theorem State.pop_faultPc : (s.pop).faultPc = s.faultPc := rfl
@[simp] theorem State.pop_keys : (s.pop).keys = s.keys := rfl
@[simp] theorem State.pop_script : (s.pop).script = s.script := rfl
@[simp] theorem State.pop_draws : (s.pop).draws = s.draws := rfl
@[simp] theorem State.pop_reg (r : Reg) : (s.pop).reg r = s.reg r := rfl
@[simp] theorem State.pop_byte (n : Nat) : (s.pop).byte n = s.byte n := rfl
@[simp] theorem State.pop_pixel (r : Fin 32) (c : Fin 64) : (s.pop).pixel r c = s.pixel r c := rfl
@[simp] theorem State.pop_slot (j : Nat) : (s.pop).slot j = s.slot j := rfl

/-! ### raise -/

@[simp] theorem State.raise_v (cause : FaultCause) (info : Word) : (s.raise cause info).v = s.v := rfl
@[simp] theorem State.raise_i (cause : FaultCause) (info : Word) : (s.raise cause info).i = s.i := rfl
@[simp] theorem State.raise_pc (cause : FaultCause) (info : Word) : (s.raise cause info).pc = s.pc := rfl
@[simp] theorem State.raise_stack (cause : FaultCause) (info : Word) : (s.raise cause info).stack = s.stack := rfl
@[simp] theorem State.raise_sp (cause : FaultCause) (info : Word) : (s.raise cause info).sp = s.sp := rfl
@[simp] theorem State.raise_dt (cause : FaultCause) (info : Word) : (s.raise cause info).dt = s.dt := rfl
@[simp] theorem State.raise_st (cause : FaultCause) (info : Word) : (s.raise cause info).st = s.st := rfl
@[simp] theorem State.raise_mem (cause : FaultCause) (info : Word) : (s.raise cause info).mem = s.mem := rfl
@[simp] theorem State.raise_fb (cause : FaultCause) (info : Word) : (s.raise cause info).fb = s.fb := rfl
@[simp] theorem State.raise_mode (cause : FaultCause) (info : Word) : (s.raise cause info).mode = .halt := rfl
@[simp] theorem State.raise_waitReg (cause : FaultCause) (info : Word) : (s.raise cause info).waitReg = s.waitReg := rfl
@[simp] theorem State.raise_faultCause (cause : FaultCause) (info : Word) : (s.raise cause info).faultCause = cause := rfl
@[simp] theorem State.raise_faultInfo (cause : FaultCause) (info : Word) : (s.raise cause info).faultInfo = info := rfl
@[simp] theorem State.raise_faultPc (cause : FaultCause) (info : Word) : (s.raise cause info).faultPc = s.pc := rfl
@[simp] theorem State.raise_keys (cause : FaultCause) (info : Word) : (s.raise cause info).keys = s.keys := rfl
@[simp] theorem State.raise_script (cause : FaultCause) (info : Word) : (s.raise cause info).script = s.script := rfl
@[simp] theorem State.raise_draws (cause : FaultCause) (info : Word) : (s.raise cause info).draws = s.draws := rfl
@[simp] theorem State.raise_reg (cause : FaultCause) (info : Word) (r : Reg) : (s.raise cause info).reg r = s.reg r := rfl
@[simp] theorem State.raise_byte (cause : FaultCause) (info : Word) (n : Nat) : (s.raise cause info).byte n = s.byte n := rfl
@[simp] theorem State.raise_pixel (cause : FaultCause) (info : Word) (r : Fin 32) (c : Fin 64) : (s.raise cause info).pixel r c = s.pixel r c := rfl
@[simp] theorem State.raise_slot (cause : FaultCause) (info : Word) (j : Nat) : (s.raise cause info).slot j = s.slot j := rfl

/-! ### Composite updates, in terms of the plain ones -/

@[simp] theorem State.advance_eq : s.advance = s.setPc (s.pc + 2#16) := rfl
@[simp] theorem State.skip_eq : s.skip = s.setPc (s.pc + 4#16) := rfl
@[simp] theorem State.jumpTo_eq (a : Word) : s.jumpTo a = s.setPc a := rfl
@[simp] theorem State.skipIf_eq (c : Bool) : s.skipIf c = s.setPc (s.pc + if c then 4#16 else 2#16) := by
  cases c <;> rfl
@[simp] theorem State.storeBytes_eq (a : Nat) (bs : List Byte) :
    s.storeBytes a bs = s.setMem (Memory.writeBytes s.mem a bs) := rfl
@[simp] theorem State.raiseRange_eq (a : Nat) :
    s.raiseRange params a = s.raise .memoryRange (BitVec.ofNat 16 (max a 0x1000)) := rfl
@[simp] theorem State.setFlag_eq (c : Bool) : s.setFlag c = s.setReg VF (flagByte c) := rfl
@[simp] theorem State.setResultFlag_eq (x : Reg) (b : Byte) (c : Bool) :
    s.setResultFlag params x b c = (s.setReg x b).setReg VF (flagByte c) := rfl
@[simp] theorem State.putCanvas_eq (p : Canvas) : s.putCanvas p = (s.setFb p.1).setReg VF (flagByte p.2) := rfl
@[simp] theorem State.afterPick_eq : s.afterPick params = s := rfl
@[simp] theorem State.takeKey_eq (x : Reg) : s.takeKey params x = (s.setReg x (s.pickKey params)).setPc (s.pc + 2#16) := rfl
@[simp] theorem State.fetchWord_eq : s.fetchWord = wordOf (s.byte s.pc.toNat) (s.byte (s.pc.toNat + 1)) := rfl
@[simp] theorem State.byteAtI_eq (k : Nat) : s.byteAtI k = s.byte (s.i.toNat + k) := rfl
@[simp] theorem State.effAddr_eq (k : Nat) : s.effAddr k = s.i.toNat + k := rfl

/-- The two outcomes of a range-checked access. -/
theorem State.checked_of_inside {base count : Nat} (h : count = 0 ∨ base + count ≤ 0x1000) (body : State) :
    s.checked params base count body = body := by
  unfold State.checked; rw [if_neg]; rw [params_memSize]; omega
theorem State.checked_of_outside {base count : Nat} (h0 : 0 < count) (h : 0x1000 < base + count) (body : State) :
    s.checked params base count body = s.raiseRange params base := by
  unfold State.checked; rw [if_pos]; rw [params_memSize]; omega

/-! ### What the observers read back -/

/-- Reading a register after a write of a register. -/
theorem State.setReg_reg (x : Reg) (b : Byte) (r : Reg) :
    (s.setReg x b).reg r = if r = x then b else s.reg r := by
  simp only [State.reg, State.setReg, Vector.getElem_set, BitVec.toNat_inj, eq_comm (a := x)]
@[simp] theorem State.setReg_reg_same (x : Reg) (b : Byte) : (s.setReg x b).reg x = b := by
  simp [State.setReg_reg]
theorem State.setReg_reg_of_ne {x r : Reg} (b : Byte) (h : r ≠ x) : (s.setReg x b).reg r = s.reg r := by
  simp [State.setReg_reg, h]

@[simp] theorem State.push_sp (a : Word) (h : s.sp.val < 16) : (s.push a h).sp.val = s.sp.val + 1 := rfl
/-- A push writes the first free slot and no other. -/
theorem State.push_slot (a : Word) (h : s.sp.val < 16) (j : Nat) :
    (s.push a h).slot j = if j = s.sp.val then a else s.slot j := by
  simp only [State.slot, State.push]
  by_cases hj : j < 16
  · simp [hj, Vector.getElem_set, eq_comm (a := j)]
  · simp [hj]; omega
@[simp] theorem State.pop_sp : s.pop.sp.val = s.sp.val - 1 := rfl

/-! ### Reset -/

@[simp] theorem State.resetWith_mem (l : List Byte) : (s.resetWith l).mem = imageMemory params l := rfl
@[simp] theorem State.resetWith_keys (l : List Byte) : (s.resetWith l).keys = s.keys := rfl
@[simp] theorem State.resetWith_script (l : List Byte) : (s.resetWith l).script = s.script := rfl
@[simp] theorem State.resetWith_draws (l : List Byte) : (s.resetWith l).draws = s.draws := rfl
@[simp] theorem State.resetWith_v (l : List Byte) : (s.resetWith l).v = State.reset.v := rfl
@[simp] theorem State.resetWith_i (l : List Byte) : (s.resetWith l).i = State.reset.i := rfl
@[simp] theorem State.resetWith_pc (l : List Byte) : (s.resetWith l).pc = State.reset.pc := rfl
@[simp] theorem State.resetWith_stack (l : List Byte) : (s.resetWith l).stack = State.reset.stack := rfl
@[simp] theorem State.resetWith_sp (l : List Byte) : (s.resetWith l).sp = State.reset.sp := rfl
@[simp] theorem State.resetWith_dt (l : List Byte) : (s.resetWith l).dt = State.reset.dt := rfl
@[simp] theorem State.resetWith_st (l : List Byte) : (s.resetWith l).st = State.reset.st := rfl
@[simp] theorem State.resetWith_fb (l : List Byte) : (s.resetWith l).fb = State.reset.fb := rfl
@[simp] theorem State.resetWith_mode (l : List Byte) : (s.resetWith l).mode = State.reset.mode := rfl
@[simp] theorem State.resetWith_waitReg (l : List Byte) : (s.resetWith l).waitReg = State.reset.waitReg := rfl
@[simp] theorem State.resetWith_faultCause (l : List Byte) : (s.resetWith l).faultCause = State.reset.faultCause := rfl
@[simp] theorem State.resetWith_faultInfo (l : List Byte) : (s.resetWith l).faultInfo = State.reset.faultInfo := rfl
@[simp] theorem State.resetWith_faultPc (l : List Byte) : (s.resetWith l).faultPc = State.reset.faultPc := rfl

/-! ### Tick -/

theorem State.tick_of_halt (h : s.mode = .halt) : s.tick = s := by simp [State.tick, h]
theorem State.tick_of_not_halt (h : s.mode ≠ .halt) :
    s.tick = (s.setDt (countDown s.dt)).setSt (countDown s.st) := by
  unfold State.tick; split
  · contradiction
  · rfl

end Sys2Proof.Machine
end

