-- ==== Sys2Proof/Laws/Display.lean ====
section
/-! SUPPORT. Laws/Display.lean: the display surface's contract (43_display.md R204) as lemmas about one pixel, and
what a sprite does to every pixel. -/

namespace Sys2Proof.Machine

/-- get_pixel after set_pixel. -/
theorem FrameBuffer.get_put (f : FrameBuffer) (r r' : Fin 32) (c c' : Fin 64) (b : Bool) :
    FrameBuffer.get (FrameBuffer.put f r c b) r' c' = if r' = r ∧ c' = c then b else FrameBuffer.get f r' c' := by
  simp only [FrameBuffer.get, FrameBuffer.put, Vector.getElem_set]
  by_cases hr : r = r'
  · subst hr
    simp only [if_true, true_and, Vector.getElem_set, Fin.val_inj, eq_comm (a := c)]
  · simp [Fin.val_inj, hr, Ne.symm hr]

/-- get_pixel after clear. -/
@[simp] theorem FrameBuffer.get_blank (r : Fin 32) (c : Fin 64) : FrameBuffer.get FrameBuffer.blank r c = false := by
  simp [FrameBuffer.get, FrameBuffer.blank]

/-- What one set sprite bit does to every pixel and to the collision. -/
theorem Canvas.toggle_get (p : Canvas) (r r' : Fin 32) (c c' : Fin 64) :
    FrameBuffer.get (p.toggle r c).1 r' c' = (FrameBuffer.get p.1 r' c' ^^ decide (r' = r ∧ c' = c)) := by
  simp only [Canvas.toggle, FrameBuffer.get_put]
  by_cases h : r' = r ∧ c' = c
  · obtain ⟨rfl, rfl⟩ := h; simp
  · simp [h]

@[simp] theorem Canvas.toggle_collision (p : Canvas) (r : Fin 32) (c : Fin 64) :
    (p.toggle r c).2 = (p.2 || FrameBuffer.get p.1 r c) := rfl

/-! ### The sprite (43_display.md R202, R203) -/

/-- Whether column `c` is addressed by a set bit among the first `m` bits of the row byte `b`. -/
def inRow (cx b : Byte) (m : Nat) (c : Fin 64) : Bool :=
  (List.range m).any (fun bit => spriteBit b bit && decide (c = displayCol cx bit))

/-- Whether pixel (r, c) is addressed by a set bit of the first `n` sprite rows. -/
def State.inSprite (s : State) (cx cy : Byte) (n : Nat) (r : Fin 32) (c : Fin 64) : Bool :=
  (List.range n).any (fun row => decide (r = displayRow cy row) && inRow cx (s.byteAtI row) 8 c)

theorem displayCol_inj {cx : Byte} {a b : Nat} (ha : a < 8) (hb : b < 8) (h : displayCol cx a = displayCol cx b) :
    a = b := by
  simp [displayCol, Fin.ext_iff] at h; omega
theorem displayRow_inj {cy : Byte} {a b : Nat} (ha : a < 32) (hb : b < 32) (h : displayRow cy a = displayRow cy b) :
    a = b := by
  simp [displayRow, Fin.ext_iff] at h; omega

/-- The first `m` bits of a row toggle exactly the pixels they address, and collide where one was foreground. -/
theorem Canvas.drawBits_spec (p : Canvas) (cx : Byte) (r : Fin 32) (b : Byte) (m : Nat) (hm : m ≤ 8) :
    let q := (List.range m).foldl (fun q bit => if spriteBit b bit then q.toggle r (displayCol cx bit) else q) p
    (∀ r' c, FrameBuffer.get q.1 r' c = (FrameBuffer.get p.1 r' c ^^ (decide (r' = r) && inRow cx b m c))) ∧
    q.2 = (p.2 || decide (∃ c, inRow cx b m c = true ∧ FrameBuffer.get p.1 r c = true)) := by
  induction m with
  | zero => simp [inRow]
  | succ m ih =>
    obtain ⟨ih1, ih2⟩ := ih (by omega)
    simp only [List.range_succ, List.foldl_append, List.foldl_cons, List.foldl_nil]
    have hs : ∀ c, inRow cx b (m + 1) c = (inRow cx b m c || (spriteBit b m && decide (c = displayCol cx m))) := by
      intro c; simp [inRow, List.range_succ]
    have hd : inRow cx b m (displayCol cx m) = false := by
      simp only [inRow, List.any_eq_false, List.mem_range, Bool.and_eq_true, decide_eq_true_eq, not_and]
      intro k hk _ he
      have := displayCol_inj (by omega) (by omega) he
      omega
    by_cases hb : spriteBit b m = true
    · simp only [hb, if_true]
      constructor
      · intro r' c
        rw [Canvas.toggle_get, ih1, hs, hb]
        by_cases hc : c = displayCol cx m
        · subst hc; simp [hd]
        · simp [hc]
      · rw [Canvas.toggle_collision, ih1, ih2, hd]
        simp only [decide_true, Bool.and_false, Bool.xor_false]
        rw [Bool.eq_iff_iff]
        simp only [Bool.or_eq_true, decide_eq_true_eq, hs, hb, Bool.true_and]
        constructor
        · rintro ((h | ⟨c, h1, h2⟩) | h)
          · exact .inl h
          · exact .inr ⟨c, .inl h1, h2⟩
          · exact .inr ⟨_, .inr rfl, h⟩
        · rintro (h | ⟨c, h1 | rfl, h2⟩)
          · exact .inl (.inl h)
          · exact .inl (.inr ⟨c, h1, h2⟩)
          · exact .inr h2
    · simp only [hb, hs]
      simpa using ⟨ih1, ih2⟩

/-- A sprite toggles exactly the pixels its set bits address, and collides where one was foreground. -/
theorem State.drawSprite_spec (s : State) (cx cy : Byte) (n : Nat) (hn : n ≤ 32) :
    (∀ r c, FrameBuffer.get (s.drawSprite cx cy n).1 r c = (s.pixel r c ^^ s.inSprite cx cy n r c)) ∧
    (s.drawSprite cx cy n).2 = decide (∃ r c, s.inSprite cx cy n r c = true ∧ s.pixel r c = true) := by
  induction n with
  | zero => simp [State.inSprite, State.drawSprite]; intros; rfl
  | succ m ih =>
    obtain ⟨ih1, ih2⟩ := ih (by omega)
    have hstep : s.drawSprite cx cy (m + 1) =
        (s.drawSprite cx cy m).drawRow cx (displayRow cy m) (s.byteAtI m) := by
      simp [State.drawSprite, List.range_succ]
    obtain ⟨h1, h2⟩ := Canvas.drawBits_spec (s.drawSprite cx cy m) cx (displayRow cy m) (s.byteAtI m) 8 (by omega)
    have hs : ∀ r c, s.inSprite cx cy (m + 1) r c =
        (s.inSprite cx cy m r c || (decide (r = displayRow cy m) && inRow cx (s.byteAtI m) 8 c)) := by
      intro r c; simp [State.inSprite, List.range_succ]
    have hd : ∀ c, s.inSprite cx cy m (displayRow cy m) c = false := by
      intro c
      simp only [State.inSprite, List.any_eq_false, List.mem_range, Bool.and_eq_true, decide_eq_true_eq, not_and]
      intro k hk he
      have := displayRow_inj (by omega) (by omega) he
      omega
    rw [hstep]
    constructor
    · intro r c
      refine (h1 r c).trans ?_
      rw [ih1, hs]
      by_cases hr : r = displayRow cy m
      · subst hr; simp [hd]
      · simp [hr]
    · refine h2.trans ?_
      rw [ih2, Bool.eq_iff_iff]
      simp only [Bool.or_eq_true, decide_eq_true_eq, hs, ih1, hd, Bool.xor_false, Bool.and_eq_true]
      constructor
      · rintro (⟨r, c, h, h'⟩ | ⟨c, h, h'⟩)
        · exact ⟨r, c, .inl h, h'⟩
        · exact ⟨_, c, .inr ⟨rfl, h⟩, h'⟩
      · rintro ⟨r, c, h | ⟨rfl, h⟩, h'⟩
        · exact .inl ⟨r, c, h, h'⟩
        · exact .inr ⟨c, h, h'⟩

/-- `State.inSprite` is the set S of 43_display.md R203 as Safety.lean writes it. -/
theorem State.inSprite_iff (s : State) (cx cy : Byte) (n : Nat) (r : Fin 32) (c : Fin 64) :
    s.inSprite cx cy n r c = true ↔ InSprite s cx cy n r c := by
  simp only [State.inSprite, inRow, List.any_eq_true, List.mem_range, Bool.and_eq_true, decide_eq_true_eq, InSprite,
    spriteBit, State.byteAtI_eq, displayRow, displayCol, Fin.ext_iff]
  constructor
  · rintro ⟨row, h1, h2, bit, h3, h4, h5⟩
    exact ⟨row, bit, h1, h3, h4, by simpa using h2, by simpa using h5⟩
  · rintro ⟨row, bit, h1, h3, h4, h2, h5⟩
    exact ⟨row, h1, by simpa using h2, bit, h3, h4, by simpa using h5⟩

end Sys2Proof.Machine
end

