-- ==== Sys2Proof/Laws/Memory.lean ====
section
/-! SUPPORT. Laws/Memory.lean: a read after a write (for any list, canonical or not), a run of bytes written, and that every
memory operation keeps the canonical form. -/

namespace Sys2Proof.Machine

theorem Memory.read_erase (m : Memory) (a b : Nat) :
    Memory.read (Memory.erase m a) b = if b = a then resetByte params a else Memory.read m b := by
  induction m with
  | nil => simp only [Memory.erase, List.filter_nil, Memory.read]; split <;> simp_all
  | cons c rest ih =>
    simp only [Memory.erase] at ih ⊢
    by_cases hc : c.1 = a
    · rw [List.filter_cons_of_neg (by simp [hc]), ih]
      by_cases hb : b = a
      · simp [hb]
      · simp [hb, Memory.read, hc, Ne.symm hb]
    · rw [List.filter_cons_of_pos (by simp [hc])]
      by_cases hb : c.1 = b
      · have : b ≠ a := fun h => hc (hb.trans h)
        simp [Memory.read, hb, this]
      · simp only [Memory.read, hb, if_false, ih]

theorem Memory.read_insert (m : Memory) (a : Nat) (v : Byte) (b : Nat) (h : ∀ c ∈ m, c.1 ≠ a) :
    Memory.read (Memory.insert a v m) b = if b = a then v else Memory.read m b := by
  induction m with
  | nil => simp only [Memory.insert, Memory.read, eq_comm (a := a)]
  | cons c rest ih =>
    have hc : c.1 ≠ a := h c (by simp)
    have hr := ih (fun d hd => h d (by simp [hd]))
    unfold Memory.insert
    split
    · simp only [Memory.read, eq_comm (a := a)]
    · by_cases hb : c.1 = b
      · have : b ≠ a := fun e => hc (hb.trans e)
        simp [Memory.read, hb, this]
      · simp only [Memory.read, hb, if_false, hr]

theorem Memory.erase_ne {m : Memory} {a : Nat} : ∀ c ∈ Memory.erase m a, c.1 ≠ a := by
  intro c hc
  simpa using (List.mem_filter.mp hc).2

/-- What a byte reads as after a write. -/
theorem Memory.read_write (m : Memory) (a : Nat) (v : Byte) (b : Nat) :
    Memory.read (Memory.write m a v) b = if b = a then v else Memory.read m b := by
  unfold Memory.write
  split
  · next h => rw [Memory.read_erase, h]
  · rw [Memory.read_insert _ _ _ _ Memory.erase_ne, Memory.read_erase]
    by_cases hb : b = a <;> simp [hb]

/-- What a byte reads as after a run of bytes has been written from `a` up. -/
theorem Memory.read_writeBytes (bs : List Byte) (m : Memory) (a b : Nat) :
    Memory.read (Memory.writeBytes m a bs) b =
      if a ≤ b ∧ b < a + bs.length then bs.getD (b - a) 0 else Memory.read m b := by
  induction bs generalizing m a with
  | nil => simp only [Memory.writeBytes, List.length_nil]; rw [if_neg (by omega)]
  | cons v rest ih =>
    simp only [Memory.writeBytes, ih, Memory.read_write, List.length_cons]
    by_cases h1 : a + 1 ≤ b ∧ b < a + 1 + rest.length
    · rw [if_pos h1, if_pos (by omega)]
      obtain ⟨k, rfl⟩ : ∃ k, b = a + 1 + k := ⟨b - (a + 1), by omega⟩
      rw [show a + 1 + k - (a + 1) = k by omega, show a + 1 + k - a = k + 1 by omega, List.getD_cons_succ]
    · rw [if_neg h1]
      by_cases hb : b = a
      · subst hb; rw [if_pos rfl, if_pos (by omega)]; simp
      · rw [if_neg hb, if_neg (by omega)]

/-- The bytes of a state after a store. -/
theorem State.byte_setMem_writeBytes (s : State) (bs : List Byte) (a b : Nat) :
    (s.setMem (Memory.writeBytes s.mem a bs)).byte b =
      if a ≤ b ∧ b < a + bs.length then bs.getD (b - a) 0 else s.byte b :=
  Memory.read_writeBytes bs s.mem a b

/-! ### The canonical form -/

theorem Memory.wf_nil : Memory.wf [] := by simp [Memory.wf]

theorem Memory.wf_erase {m : Memory} (h : m.wf) (a : Nat) : (Memory.erase m a).wf :=
  ⟨h.1.filter _, fun c hc => h.2 c (List.mem_filter.mp hc).1⟩

theorem Memory.mem_insert {m : Memory} {a : Nat} {v : Byte} {c : Host.Cell} :
    c ∈ Memory.insert a v m ↔ c = (a, v) ∨ c ∈ m := by
  induction m with
  | nil => simp [Memory.insert]
  | cons d rest ih =>
    unfold Memory.insert
    split
    · simp
    · simp only [List.mem_cons, ih]; tauto

theorem Memory.wf_insert {m : Memory} (h : m.wf) {a : Nat} {v : Byte} (hm : ∀ c ∈ m, c.1 ≠ a)
    (ha : a < 4096) (hv : v ≠ resetByte params a) : (Memory.insert a v m).wf := by
  refine ⟨?_, ?_⟩
  · have hp := h.1
    clear h
    induction m with
    | nil => simp [Memory.insert]
    | cons d rest ih =>
      have hd : d.1 ≠ a := hm d (by simp)
      have hr := ih (fun c hc => hm c (by simp [hc])) hp.of_cons
      have hlt := (List.pairwise_cons.mp hp).1
      unfold Memory.insert
      split
      · next hlt' =>
        refine List.pairwise_cons.mpr ⟨?_, hp⟩
        intro c hc
        rcases List.mem_cons.mp hc with rfl | hc
        · exact hlt'
        · exact lt_trans hlt' (hlt c hc)
      · refine List.pairwise_cons.mpr ⟨?_, hr⟩
        intro c hc
        rcases Memory.mem_insert.mp hc with rfl | hc
        · show d.1 < a; omega
        · exact hlt c hc
  · intro c hc
    rcases Memory.mem_insert.mp hc with rfl | hc
    · exact ⟨ha, hv⟩
    · exact h.2 c hc

/-- A write inside memory keeps the canonical form. -/
theorem Memory.wf_write {m : Memory} (h : m.wf) {a : Nat} (ha : a < 4096) (v : Byte) : (Memory.write m a v).wf := by
  unfold Memory.write
  split
  · exact Memory.wf_erase h a
  · next hv => exact Memory.wf_insert (Memory.wf_erase h a) Memory.erase_ne ha hv

/-- A run of bytes written inside memory keeps the canonical form. -/
theorem Memory.wf_writeBytes {m : Memory} (h : m.wf) (bs : List Byte) {a : Nat} (ha : a + bs.length ≤ 4096) :
    (Memory.writeBytes m a bs).wf := by
  induction bs generalizing m a with
  | nil => exact h
  | cons v rest ih =>
    simp only [List.length_cons] at ha
    exact ih (Memory.wf_write h (by omega) v) (by omega)

/-- The memory `Reset(image)` leaves is in canonical form, whatever the image. -/
theorem imageMemory_wf (image : List Byte) : (imageMemory params image).wf := by
  refine Memory.wf_writeBytes Memory.wf_nil _ ?_
  simp only [List.length_take, params, sizes]; omega

theorem State.reset_mem_wf : State.reset.mem.wf := Memory.wf_nil

/-- Two memories in canonical form that read alike are equal. -/
theorem Memory.wf_ext {m n : Memory} (hm : m.wf) (hn : n.wf) (h : ∀ a, Memory.read m a = Memory.read n a) : m = n := by
  have read_none : ∀ {l : Memory} {a : Nat}, (∀ c ∈ l, a < c.1) → Memory.read l a = resetByte params a := by
    intro l a hl
    induction l with
    | nil => rfl
    | cons c rest ih =>
      have : c.1 ≠ a := by have := hl c (by simp); omega
      simp only [Memory.read, this, if_false]
      exact ih (fun d hd => hl d (by simp [hd]))
  have tail : ∀ {c : Host.Cell} {l : Memory}, Memory.wf (c :: l) → Memory.wf l ∧ (∀ d ∈ l, c.1 < d.1) ∧ c.2 ≠ resetByte params c.1 :=
    fun {c l} w => ⟨⟨w.1.of_cons, fun d hd => w.2 d (by simp [hd])⟩, (List.pairwise_cons.mp w.1).1, (w.2 c (by simp)).2⟩
  induction m generalizing n with
  | nil =>
    cases n with
    | nil => rfl
    | cons d ns =>
      have hd := h d.1
      simp only [Memory.read, if_true] at hd
      exact absurd hd.symm (tail hn).2.2
  | cons c ms ih =>
    cases n with
    | nil =>
      have hc := h c.1
      simp only [Memory.read, if_true] at hc
      exact absurd hc (tail hm).2.2
    | cons d ns =>
      obtain ⟨hm', hc, hc'⟩ := tail hm
      obtain ⟨hn', hd, hd'⟩ := tail hn
      have key : c.1 = d.1 := by
        rcases Nat.lt_trichotomy c.1 d.1 with hlt | heq | hgt
        · have h1 := h c.1
          rw [read_none (l := d :: ns) (fun e he => by rcases List.mem_cons.mp he with rfl | he; exacts [hlt, lt_trans hlt (hd e he)])] at h1
          simp only [Memory.read, if_true] at h1
          exact absurd h1 hc'
        · exact heq
        · have h1 := h d.1
          rw [read_none (l := c :: ms) (fun e he => by rcases List.mem_cons.mp he with rfl | he; exacts [hgt, lt_trans hgt (hc e he)])] at h1
          simp only [Memory.read, if_true] at h1
          exact absurd h1.symm hd'
      have hv : c.2 = d.2 := by
        have h1 := h c.1
        simpa [Memory.read, key] using h1
      have : c = d := Prod.ext key hv
      subst this
      congr 1
      refine ih hm' hn' (fun a => ?_)
      have h1 := h a
      by_cases ha : c.1 = a
      · subst ha; rw [read_none hc, read_none hd]
      · simpa [Memory.read, ha] using h1

end Sys2Proof.Machine
end

