-- ==== Sys2Proof/Laws/Operands.lean ====
section
/-! SUPPORT. Laws/Operands.lean: one lemma per shared operand and flag operation, saying all it can do. -/

namespace Sys2Proof.Machine

/-! ### Flags (10_state.md R40) -/

theorem flagByte_cases (c : Bool) : flagByte c = 0 ∨ flagByte c = 1 := by cases c <;> decide
theorem flagByte_carryOut (a b : RegVal) :
    flagByte (carryOut a b) = if 255 < a.toNat + b.toNat then 1 else 0 := by
  simp [flagByte, carryOut]
theorem flagByte_strictlyGreater (a b : RegVal) :
    flagByte (strictlyGreater a b) = if b.toNat < a.toNat then 1 else 0 := by
  simp [flagByte, strictlyGreater]
theorem flagByte_lowBit (a : RegVal) : (flagByte (lowBit a)).toNat = a.toNat % 2 := by revert a; decide
theorem flagByte_highBit (a : RegVal) : (flagByte (highBit a)).toNat = a.toNat / 128 := by revert a; decide
theorem flagByte_indexOverflow (i : Address) (b : RegVal) :
    flagByte (indexOverflow params i b) = if 0x1000 ≤ i.toNat + b.toNat then 1 else 0 := by
  simp only [flagByte, indexOverflow, decide_eq_true_eq]; rfl

/-- Which of two writes to VF survives, under each `VF_WRITE_PRIORITY` (41_alu.md R150). -/
theorem State.setResultFlag_vf (s : State) (p : Params) (result : RegVal) (c : Bool) :
    (s.setResultFlag p VF result c).reg VF = match p.vfWritePriority with | .flag => flagByte c | .result => result := by
  unfold State.setResultFlag; cases p.vfWritePriority <;> simp [State.setFlag]

/-! ### Immediates -/

@[simp] theorem addrWord_toNat (nnn : Addr) : (addrWord nnn).toNat = nnn.toNat := by simp [addrWord]; omega
@[simp] theorem byteWord_toNat (b : Byte) : (byteWord b).toNat = b.toNat := by simp [byteWord]; omega
theorem glyphAddr_toNat (b : RegVal) : (glyphAddr params b).toNat = params.fontBase + 5 * (b.toNat % 16) := by
  have := b.isLt
  simp [glyphAddr, params, sizes]; omega

/-! ### The block V0..Vx -/

@[simp] theorem State.block_length (s : State) (x : Reg) : (s.block x).length = x.toNat + 1 := by
  simp [State.block, blockSize]
theorem State.block_getD (s : State) (x k : Reg) (h : k.toNat ≤ x.toNat) : (s.block x).getD k.toNat 0 = s.reg k := by
  simp [State.block, blockSize, List.getElem?_range (show k.toNat < x.toNat + 1 by omega)]
@[simp] theorem decimalDigits_length (b : Byte) : (decimalDigits b).length = 3 := rfl

/-- A store of bytes from I up leaves every other byte as it was. -/
theorem State.storeBytes_outside (s : State) {bs : List Byte} {a : Nat}
    (h : a ∉ (List.range bs.length).map s.effAddr) : (s.storeBytes (s.effAddr 0) bs).byte a = s.byte a := by
  rw [State.storeBytes_eq, State.byte_setMem_writeBytes, if_neg]
  rintro ⟨h1, h2⟩
  refine h (List.mem_map.mpr ⟨a - s.effAddr 0, List.mem_range.mpr (by omega), ?_⟩)
  simp only [State.effAddr] at *; omega

/-- Loading a block changes registers only. -/
theorem State.loadBlock_eq (s : State) (k n : Nat) : ∃ v, s.loadBlock k n = { s with v := v } := by
  induction n generalizing s k with
  | zero => exact ⟨s.v, rfl⟩
  | succ n ih =>
    obtain ⟨v, hv⟩ := ih (s.setReg (BitVec.ofNat 4 k) (s.byteAtI k)) (k + 1)
    exact ⟨v, by simp only [State.loadBlock, hv]; rfl⟩

/-- What each register holds after a block has been loaded. -/
theorem State.loadBlock_reg (s : State) (k n : Nat) (h : k + n ≤ 16) (r : Reg) :
    (s.loadBlock k n).reg r =
      if k ≤ r.toNat ∧ r.toNat < k + n then s.byte (s.i.toNat + r.toNat) else s.reg r := by
  induction n generalizing s k with
  | zero => simp [State.loadBlock]
  | succ n ih =>
    rw [State.loadBlock, ih _ _ (by omega)]
    simp only [State.setReg_byte, State.setReg_i, State.setReg_reg]
    have hk : r = BitVec.ofNat 4 k ↔ r.toNat = k := by
      rw [← BitVec.toNat_inj]; simp; omega
    simp only [hk]
    by_cases h1 : k + 1 ≤ r.toNat ∧ r.toNat < k + 1 + n
    · rw [if_pos h1, if_pos (by omega)]
    · rw [if_neg h1]
      by_cases h2 : r.toNat = k
      · rw [if_pos h2, if_pos (by omega)]; simp [h2]
      · rw [if_neg h2, if_neg (by omega)]

/-! ### Keys and the random draw -/

/-- A register value that names a key, under either policy. -/
theorem keyIndex_of_lt (p : Params) {b : RegVal} (h : b.toNat < p.numKeys) : keyIndex p b = some (b.extractLsb' 0 4) := by
  unfold keyIndex; split
  · rw [if_neg (by omega)]
  · rfl
/-- A register value that names none, under `KEY_INDEX_POLICY = fault`. -/
theorem keyIndex_of_ge {p : Params} {b : RegVal} (hp : p.keyIndexPolicy = .fault) (h : p.numKeys ≤ b.toNat) :
    keyIndex p b = none := by
  simp [keyIndex, hp, h]
/-- `KEY_INDEX_POLICY = mask`: every register value names a key. -/
theorem keyIndex_of_mask {p : Params} (hp : p.keyIndexPolicy = .mask) (b : RegVal) :
    keyIndex p b = some (b.extractLsb' 0 4) := by
  simp [keyIndex, hp]
theorem keyIndex_of_le {b : RegVal} (h : b.toNat ≤ 15) : keyIndex params b = some (b.extractLsb' 0 4) :=
  keyIndex_of_lt _ (by rw [params_numKeys]; omega)
theorem keyIndex_of_gt {b : RegVal} (h : 15 < b.toNat) : keyIndex params b = none :=
  keyIndex_of_ge rfl (by rw [params_numKeys]; omega)

/-- Under `KEYWAIT_PICK = any` with some key down, the picked key is one that is down, and nothing more is known of it. -/
theorem State.pickKey_any (s : State) {p : Params} (hp : p.keywaitPick = .any) (hk : p.numKeys = 16) (h : s.keys ≠ 0) :
    ∃ k, s.keys.getLsbD k = true ∧ s.pickKey p = BitVec.ofNat 8 k := by
  have hne : 0 < (pressedKeys p s.keys).length := by
    rw [List.length_pos_iff_exists_mem]
    by_contra hc
    push Not at hc
    refine h (BitVec.eq_of_getLsbD_eq fun i hi => ?_)
    simpa [pressedKeys, hk, hi] using hc i
  have hm := List.getElem_mem (Nat.mod_lt (Config.keyChoice s.draws).toNat hne)
  refine ⟨_, (List.mem_filter.mp hm).2, ?_⟩
  simp only [State.pickKey, hp]
  rw [List.getD_eq_getElem _ _ (Nat.mod_lt _ hne)]

/-- With some key down, the picked key is the lowest one down. -/
theorem State.pickKey_lowest (s : State) (h : s.keys ≠ 0) :
    ∃ k, s.keys.getLsbD k = true ∧ (∀ j, j < k → s.keys.getLsbD j = false) ∧ s.pickKey params = BitVec.ofNat 8 k := by
  have hex : ∃ k, s.keys.getLsbD k = true := by
    by_contra hc
    push Not at hc
    exact h (BitVec.eq_of_getLsbD_eq (fun i _ => by simpa using hc i))
  refine ⟨Nat.find hex, Nat.find_spec hex, fun j hj => by simpa using Nat.find_min hex hj, ?_⟩
  have key : (pressedKeys params s.keys).head? = some (Nat.find hex) := by
    unfold pressedKeys
    rw [List.head?_filter, List.find?_range_eq_some]
    exact ⟨Nat.find_spec hex, List.mem_range.mpr (BitVec.lt_of_getLsbD (Nat.find_spec hex)),
      fun j hj => by simpa using Nat.find_min hex hj⟩
  simp only [State.pickKey, show params.keywaitPick = .lowest from rfl]
  rw [List.headD_eq_head?_getD, key]; rfl

/-- A draw lies in 0..nn, whatever the free value is. -/
theorem State.draw_le (s : State) (nn : Byte) : (s.draw nn).toNat ≤ nn.toNat := by
  have h1 := Nat.mod_lt (Config.rnd s.draws).toNat (Nat.succ_pos nn.toNat)
  have h2 := nn.isLt
  simp only [State.draw, BitVec.toNat_ofNat, Nat.succ_eq_add_one] at *
  omega

end Sys2Proof.Machine
end

