-- ==== Sys2Proof/Laws/Exec.lean ====
section
/-! SUPPORT. Laws/Exec.lean: once and for all, what an instruction can do (exec_outcome): it raises, or it starts the key wait, or
it completes within its frame; and what a step does by the host's next event. -/

namespace Sys2Proof.Machine

/-- Fault entry, seen from outside. -/
theorem State.raise_only (s : State) (cause : FaultCause) (info : Word) :
    OnlyRaises cause info s (s.raise cause info) := by
  constructor <;> first | rfl | (constructor <;> simp)

/-- A conditional skip leaves PC at one of two places. -/
theorem State.skipIf_pc (s : State) (c : Bool) : (s.skipIf c).pc ∈ [s.pc + 2#16, s.pc + 4#16] := by
  cases c <;> simp

/-- What holds after an instruction that neither raises nor waits. -/
structure Completes (i : Instr) (s t : State) : Prop where
  mode : t.mode = s.mode
  waitReg : t.waitReg = s.waitReg
  cause : t.faultCause = s.faultCause
  info : t.faultInfo = s.faultInfo
  faultPc : t.faultPc = s.faultPc
  pc : t.pc ∈ pcAfter i s
  frame : UnchangedExcept (writtenRegs i) (writtenParts i) s t
  outside : ∀ a, a ∉ storedAddrs i s → t.byte a = s.byte a
  form : s.mem.wf → t.mem.wf

/-- The three ways an instruction can end. -/
inductive ExecOutcome (i : Instr) (s t : State) : Prop where
  | raises (cause : FaultCause) (info : Word) (recorded : cause ≠ .none)
      (unsupported : cause = .unsupportedInstruction ↔ ∃ nnn, i = .sys nnn)
      (allowed : Part.mode ∈ writtenParts i ∧ Part.faultRecord ∈ writtenParts i) (eq : t = s.raise cause info)
  | waits (x : Reg) (instr : i = .ldVxK x) (noKey : s.keys = 0) (eq : t = (s.setMode .waitKey).setWaitReg x)
  | completes (h : Completes i s t)

/-- An instruction whose accesses are checked either raises `MemoryRange` or ends in its body. -/
theorem ExecOutcome.checked {i : Instr} {s : State} (base count : Nat) (body : State)
    (allowed : Part.mode ∈ writtenParts i ∧ Part.faultRecord ∈ writtenParts i) (notSys : ∀ nnn, i ≠ .sys nnn)
    (inside : count = 0 ∨ base + count ≤ 0x1000 → Completes i s body) : ExecOutcome i s (s.checked params base count body) := by
  by_cases h : count = 0 ∨ base + count ≤ 0x1000
  · rw [State.checked_of_inside _ h]; exact .completes (inside h)
  · rw [State.checked_of_outside _ (by omega) (by omega)]
    exact .raises .memoryRange _ (by simp) (by simpa using notSys) allowed rfl

/-- A key test either raises `KeyIndexRange` or ends in a conditional skip. -/
theorem ExecOutcome.skipOnKey {i : Instr} {s : State} (x : Reg) (level : Bool)
    (allowed : Part.mode ∈ writtenParts i ∧ Part.faultRecord ∈ writtenParts i) (notSys : ∀ nnn, i ≠ .sys nnn)
    (pcs : pcAfter i s = [s.pc + 2#16, s.pc + 4#16]) : ExecOutcome i s (s.skipOnKey params x level) := by
  unfold State.skipOnKey
  split
  · exact .raises _ _ (by simp) (by simpa using notSys) allowed rfl
  · refine .completes ⟨by simp, by simp, by simp, by simp, by simp, ?_, ?_, by simp, by simp⟩
    · rw [pcs]; exact State.skipIf_pc s _
    · constructor <;> simp

/-- EVERY INSTRUCTION, FROM EVERY STATE: it answers a next state, in one of three ways. -/
theorem exec_outcome (i : Instr) (s : State) : ∃ t, exec i s = .next t ∧ ExecOutcome i s t := by
  cases i with
  | sys nnn => exact ⟨_, rfl, .raises _ _ (by simp) (by simp) (by simp [writtenParts]) rfl⟩
  | ret =>
    by_cases h : s.sp.val = 0
    · exact ⟨s.raise .stackUnderflow (encode .ret), by simp [exec, execRet, h],
        .raises _ _ (by simp) (by simp) (by simp [writtenParts]) rfl⟩
    · refine ⟨s.pop.jumpTo (s.slot (s.sp.val - 1)), by simp [exec, execRet]; omega,
        .completes ⟨rfl, rfl, rfl, rfl, rfl, by simp [pcAfter], ?_, fun _ _ => rfl, id⟩⟩
      constructor <;> simp [writtenParts]
  | call nnn =>
    by_cases h : s.sp.val < 16
    · refine ⟨(s.push (s.pc + 2#16) h).jumpTo (addrWord nnn), by simp [exec, execCall, h],
        .completes ⟨rfl, rfl, rfl, rfl, rfl, by simp [pcAfter], ?_, fun _ _ => rfl, id⟩⟩
      constructor <;> simp [writtenParts]
    · exact ⟨s.raise .stackOverflow (encode (.call nnn)), by simp [exec, execCall, h],
        .raises _ _ (by simp) (by simp) (by simp [writtenParts]) rfl⟩
  | drw x y n =>
    refine ⟨_, rfl, .checked _ _ _ (by simp [writtenParts]) (by simp) fun _ =>
      ⟨rfl, rfl, rfl, rfl, rfl, by simp [pcAfter], ?_, fun _ _ => rfl, id⟩⟩
    constructor <;> simp +contextual [writtenParts, writtenRegs, State.setReg_reg]
  | ldB x =>
    refine ⟨_, rfl, .checked _ _ _ (by simp [writtenParts]) (by simp) fun h =>
      ⟨rfl, rfl, rfl, rfl, rfl, by simp [pcAfter], ?_, ?_, fun hw => Memory.wf_writeBytes hw _ ?_⟩⟩
    · constructor <;> simp [writtenParts]
    · exact fun a ha => State.storeBytes_outside s ha
    · simp at h ⊢; omega
  | stRegs x =>
    refine ⟨_, rfl, .checked _ _ _ (by simp [writtenParts]) (by simp) fun h =>
      ⟨rfl, rfl, rfl, rfl, rfl, by simp [pcAfter], ?_, ?_, fun hw => Memory.wf_writeBytes hw _ ?_⟩⟩
    · constructor <;> simp [writtenParts]
    · exact fun a ha => State.storeBytes_outside s (by rwa [State.block_length])
    · simp [blockSize] at h ⊢; omega
  | ldRegs x =>
    obtain ⟨v, hv⟩ := State.loadBlock_eq s 0 (blockSize x)
    have hr := State.loadBlock_reg s 0 (blockSize x) (by simp [blockSize]; omega)
    refine ⟨_, rfl, .checked _ _ _ (by simp [writtenParts]) (by simp) fun _ => ?_⟩
    refine ⟨?_, ?_, ?_, ?_, ?_, ?_, ⟨?_, ?_, ?_, ?_, ?_, ?_, ?_, ?_, ?_, ?_, ?_, ?_, ?_⟩, ?_, ?_⟩
    all_goals first | (simp [hv, pcAfter]; done) | (simp [hv]; intros; rfl) | skip
    intro r hr'
    simp only [State.advance_eq, State.setPc_reg, hr]
    rw [if_neg]
    rintro ⟨-, hlt⟩
    exact hr' (by simp only [writtenRegs, List.mem_map, List.mem_range]; exact ⟨r.toNat, by simpa [blockSize] using hlt, by simp⟩)
  | skp x => exact ⟨_, rfl, .skipOnKey x true (by simp [writtenParts]) (by simp) rfl⟩
  | sknp x => exact ⟨_, rfl, .skipOnKey x false (by simp [writtenParts]) (by simp) rfl⟩
  | ldVxK x =>
    by_cases h : s.keys = 0
    · exact ⟨(s.setMode .waitKey).setWaitReg x, by simp only [exec, execLdVxK]; rw [if_pos h], .waits x rfl h rfl⟩
    · refine ⟨s.takeKey params x, by simp only [exec, execLdVxK]; rw [if_neg h],
        .completes ⟨rfl, rfl, rfl, rfl, rfl, by simp [pcAfter], ?_, fun _ _ => rfl, id⟩⟩
      constructor <;> simp +contextual [writtenRegs, State.setReg_reg]
  | seImm | sneImm | seReg | sneReg =>
    refine ⟨_, rfl, .completes ⟨by simp, by simp, by simp, by simp, by simp, State.skipIf_pc s _, ?_, by simp, by simp⟩⟩
    constructor <;> simp
  | _ =>
    refine ⟨_, rfl, .completes ⟨rfl, rfl, rfl, rfl, rfl, by simp [pcAfter, State.v0Target], ?_, fun _ _ => rfl, id⟩⟩
    constructor <;> simp +contextual [writtenParts, writtenRegs, State.setReg_reg]

/-! ### Steps by the host's next event -/

@[simp] theorem atStep_reg (s : State) (r : Reg) : (atStep s).reg r = s.reg r := by unfold atStep; split <;> rfl
@[simp] theorem atStep_byte (s : State) (a : Nat) : (atStep s).byte a = s.byte a := by unfold atStep; split <;> rfl
@[simp] theorem atStep_pc (s : State) : (atStep s).pc = s.pc := by unfold atStep; split <;> rfl
@[simp] theorem atStep_mode (s : State) : (atStep s).mode = s.mode := by unfold atStep; split <;> rfl
@[simp] theorem atStep_mem (s : State) : (atStep s).mem = s.mem := by unfold atStep; split <;> rfl
@[simp] theorem atStep_sp (s : State) : (atStep s).sp = s.sp := by unfold atStep; split <;> rfl
@[simp] theorem atStep_slot (s : State) (j : Nat) : (atStep s).slot j = s.slot j := by unfold atStep; split <;> rfl
@[simp] theorem atStep_waitReg (s : State) : (atStep s).waitReg = s.waitReg := by unfold atStep; split <;> rfl
@[simp] theorem atStep_faultCause (s : State) : (atStep s).faultCause = s.faultCause := by unfold atStep; split <;> rfl
@[simp] theorem atStep_fetchable (s : State) : (atStep s).fetchable params = s.fetchable params := by simp [State.fetchable]

/-- A step whose event is a `Step` is one cycle. -/
theorem step_of_stepIsNext {s : State} (h : StepIsNext s) : step s = cycle (atStep s) := by
  rcases h with h | ⟨k, r, h⟩ <;> simp [step, hostStep, atStep, h]

/-- The four kinds of step. -/
theorem step_cases (s : State) :
    (StepIsNext s ∧ step s = cycle (atStep s)) ∨
    (∃ rest, s.script = .tick :: rest ∧ step s = .next (s.setScript rest).tick) ∨
    (∃ image rest, s.script = .reset image :: rest ∧ step s = .next ((s.setScript rest).resetWith image)) := by
  match h : s.script with
  | [] => exact .inl ⟨.inl h, step_of_stepIsNext (.inl h)⟩
  | .step k :: rest => exact .inl ⟨.inr ⟨k, rest, h⟩, step_of_stepIsNext (.inr ⟨k, rest, h⟩)⟩
  | .tick :: rest => exact .inr (.inl ⟨rest, rfl, by simp [step, hostStep, h]⟩)
  | .reset image :: rest => exact .inr (.inr ⟨image, rest, rfl, by simp [step, hostStep, h]⟩)

/-- The fetch's range check (40_cycle_control.md R121). -/
theorem State.fetchable_iff (s : State) : s.fetchable params = true ↔ s.pc.toNat ≤ 0xFFE := by
  unfold State.fetchable; rw [decide_eq_true_eq, params_memSize]; omega

/-- One cycle in `RUN`: the fetch raises, the word is unsupported, or the decoded instruction executes. -/
theorem runCycle_cases (s : State) :
    (0xFFE < s.pc.toNat ∧ runCycle s = .next (s.raiseRange params s.pc.toNat)) ∨
    (s.pc.toNat ≤ 0xFFE ∧ (∃ e, decode s.fetchWord = .error e) ∧
      runCycle s = .next (s.raise .unsupportedInstruction s.fetchWord)) ∨
    (s.pc.toNat ≤ 0xFFE ∧ ∃ i, decode s.fetchWord = .ok i ∧ runCycle s = exec i s) := by
  by_cases h : s.pc.toNat ≤ 0xFFE
  · have hf : s.fetchable params = true := (State.fetchable_iff s).mpr h
    refine .inr ?_
    unfold runCycle
    rw [if_pos hf]
    split
    · next i hi => exact .inr ⟨h, i, hi, rfl⟩
    · next e he => exact .inl ⟨h, ⟨e, he⟩, rfl⟩
  · have hf : s.fetchable params ≠ true := fun hc => h ((State.fetchable_iff s).mp hc)
    exact .inl ⟨by omega, by unfold runCycle; rw [if_neg hf]⟩

end Sys2Proof.Machine
end

