-- ==== Sys2Proof/Laws/PerInstr.lean ====
section
/-! SUPPORT. Laws/PerInstr.lean: the per-instruction family EncodesItsRow: an instruction's word selects the row of the opcode map
(30_encoding.md R95) that carries the instruction's mnemonic. -/

namespace Sys2Proof.Laws.EncodesItsRow

/-- The row of the instruction's mnemonic is in the map, and the instruction's word passes that row's test. -/
def Statement (i : Instr) : Prop :=
  ∃ row ∈ opcodeMap, row.mnemonic = i.mnemonic ∧ row.selects (encode i) = true

/-- The mask of a format, applied to a packed word, leaves the fixed nibbles. -/
theorem mask_packNNN (m : Nibble) (nnn : Addr) : packNNN m nnn &&& (0xF000 : Word) = packNNN m 0 := by
  apply BitVec.eq_of_getLsbD_eq
  intro k hk
  simp only [packNNN, BitVec.getLsbD_and, BitVec.getLsbD_append]
  interval_cases k <;> simp
theorem mask_packXNN (m : Nibble) (x : Reg) (nn : Byte) : packXNN m x nn &&& (0xF000 : Word) = packXNN m 0 0 := by
  apply BitVec.eq_of_getLsbD_eq
  intro k hk
  simp only [packXNN, BitVec.getLsbD_and, BitVec.getLsbD_append]
  interval_cases k <;> simp
theorem mask_packX (m : Nibble) (x : Reg) (nn : Byte) : packXNN m x nn &&& (0xF0FF : Word) = packXNN m 0 nn := by
  apply BitVec.eq_of_getLsbD_eq
  intro k hk
  simp only [packXNN, BitVec.getLsbD_and, BitVec.getLsbD_append]
  interval_cases k <;> simp
theorem mask_packXY (m : Nibble) (x y : Reg) (n : Nibble) : packXYN m x y n &&& (0xF00F : Word) = packXYN m 0 0 n := by
  apply BitVec.eq_of_getLsbD_eq
  intro k hk
  simp only [packXYN, BitVec.getLsbD_and, BitVec.getLsbD_append]
  interval_cases k <;> simp
theorem mask_packXYN (m : Nibble) (x y : Reg) (n : Nibble) : packXYN m x y n &&& (0xF000 : Word) = packXYN m 0 0 0 := by
  apply BitVec.eq_of_getLsbD_eq
  intro k hk
  simp only [packXYN, BitVec.getLsbD_and, BitVec.getLsbD_append]
  interval_cases k <;> simp

theorem cls : Statement Instr.cls :=
  ⟨⟨"CLS", 0x00E0, 0xFFFF⟩, by decide, rfl, by decide⟩
theorem ret : Statement Instr.ret :=
  ⟨⟨"RET", 0x00EE, 0xFFFF⟩, by decide, rfl, by decide⟩
theorem jp (nnn : Addr) : Statement (Instr.jp nnn) :=
  ⟨⟨"JP", 0x1000, 0xF000⟩, by decide, rfl, by simp only [OpcodeRow.selects, encode, mask_packNNN]; decide⟩
theorem call (nnn : Addr) : Statement (Instr.call nnn) :=
  ⟨⟨"CALL", 0x2000, 0xF000⟩, by decide, rfl, by simp only [OpcodeRow.selects, encode, mask_packNNN]; decide⟩
theorem seImm (x : Reg) (nn : Byte) : Statement (Instr.seImm x nn) :=
  ⟨⟨"SE_IMM", 0x3000, 0xF000⟩, by decide, rfl, by simp only [OpcodeRow.selects, encode, mask_packXNN]; decide⟩
theorem sneImm (x : Reg) (nn : Byte) : Statement (Instr.sneImm x nn) :=
  ⟨⟨"SNE_IMM", 0x4000, 0xF000⟩, by decide, rfl, by simp only [OpcodeRow.selects, encode, mask_packXNN]; decide⟩
theorem seReg (x y : Reg) : Statement (Instr.seReg x y) :=
  ⟨⟨"SE_REG", 0x5000, 0xF00F⟩, by decide, rfl, by simp only [OpcodeRow.selects, encode, mask_packXY]; decide⟩
theorem ldImm (x : Reg) (nn : Byte) : Statement (Instr.ldImm x nn) :=
  ⟨⟨"LD_IMM", 0x6000, 0xF000⟩, by decide, rfl, by simp only [OpcodeRow.selects, encode, mask_packXNN]; decide⟩
theorem addImm (x : Reg) (nn : Byte) : Statement (Instr.addImm x nn) :=
  ⟨⟨"ADD_IMM", 0x7000, 0xF000⟩, by decide, rfl, by simp only [OpcodeRow.selects, encode, mask_packXNN]; decide⟩
theorem ldReg (x y : Reg) : Statement (Instr.ldReg x y) :=
  ⟨⟨"LD_REG", 0x8000, 0xF00F⟩, by decide, rfl, by simp only [OpcodeRow.selects, encode, mask_packXY]; decide⟩
theorem or (x y : Reg) : Statement (Instr.or x y) :=
  ⟨⟨"OR", 0x8001, 0xF00F⟩, by decide, rfl, by simp only [OpcodeRow.selects, encode, mask_packXY]; decide⟩
theorem and (x y : Reg) : Statement (Instr.and x y) :=
  ⟨⟨"AND", 0x8002, 0xF00F⟩, by decide, rfl, by simp only [OpcodeRow.selects, encode, mask_packXY]; decide⟩
theorem xor (x y : Reg) : Statement (Instr.xor x y) :=
  ⟨⟨"XOR", 0x8003, 0xF00F⟩, by decide, rfl, by simp only [OpcodeRow.selects, encode, mask_packXY]; decide⟩
theorem addReg (x y : Reg) : Statement (Instr.addReg x y) :=
  ⟨⟨"ADD_REG", 0x8004, 0xF00F⟩, by decide, rfl, by simp only [OpcodeRow.selects, encode, mask_packXY]; decide⟩
theorem sub (x y : Reg) : Statement (Instr.sub x y) :=
  ⟨⟨"SUB", 0x8005, 0xF00F⟩, by decide, rfl, by simp only [OpcodeRow.selects, encode, mask_packXY]; decide⟩
theorem shr (x y : Reg) : Statement (Instr.shr x y) :=
  ⟨⟨"SHR", 0x8006, 0xF00F⟩, by decide, rfl, by simp only [OpcodeRow.selects, encode, mask_packXY]; decide⟩
theorem subn (x y : Reg) : Statement (Instr.subn x y) :=
  ⟨⟨"SUBN", 0x8007, 0xF00F⟩, by decide, rfl, by simp only [OpcodeRow.selects, encode, mask_packXY]; decide⟩
theorem shl (x y : Reg) : Statement (Instr.shl x y) :=
  ⟨⟨"SHL", 0x800E, 0xF00F⟩, by decide, rfl, by simp only [OpcodeRow.selects, encode, mask_packXY]; decide⟩
theorem sneReg (x y : Reg) : Statement (Instr.sneReg x y) :=
  ⟨⟨"SNE_REG", 0x9000, 0xF00F⟩, by decide, rfl, by simp only [OpcodeRow.selects, encode, mask_packXY]; decide⟩
theorem ldI (nnn : Addr) : Statement (Instr.ldI nnn) :=
  ⟨⟨"LD_I", 0xA000, 0xF000⟩, by decide, rfl, by simp only [OpcodeRow.selects, encode, mask_packNNN]; decide⟩
theorem jpV0 (nnn : Addr) : Statement (Instr.jpV0 nnn) :=
  ⟨⟨"JP_V0", 0xB000, 0xF000⟩, by decide, rfl, by simp only [OpcodeRow.selects, encode, mask_packNNN]; decide⟩
theorem rnd (x : Reg) (nn : Byte) : Statement (Instr.rnd x nn) :=
  ⟨⟨"RND", 0xC000, 0xF000⟩, by decide, rfl, by simp only [OpcodeRow.selects, encode, mask_packXNN]; decide⟩
theorem drw (x y : Reg) (n : Nibble) : Statement (Instr.drw x y n) :=
  ⟨⟨"DRW", 0xD000, 0xF000⟩, by decide, rfl, by simp only [OpcodeRow.selects, encode, mask_packXYN]; decide⟩
theorem skp (x : Reg) : Statement (Instr.skp x) :=
  ⟨⟨"SKP", 0xE09E, 0xF0FF⟩, by decide, rfl, by simp only [OpcodeRow.selects, encode, mask_packX]; decide⟩
theorem sknp (x : Reg) : Statement (Instr.sknp x) :=
  ⟨⟨"SKNP", 0xE0A1, 0xF0FF⟩, by decide, rfl, by simp only [OpcodeRow.selects, encode, mask_packX]; decide⟩
theorem ldVxDt (x : Reg) : Statement (Instr.ldVxDt x) :=
  ⟨⟨"LD_VX_DT", 0xF007, 0xF0FF⟩, by decide, rfl, by simp only [OpcodeRow.selects, encode, mask_packX]; decide⟩
theorem ldVxK (x : Reg) : Statement (Instr.ldVxK x) :=
  ⟨⟨"LD_VX_K", 0xF00A, 0xF0FF⟩, by decide, rfl, by simp only [OpcodeRow.selects, encode, mask_packX]; decide⟩
theorem ldDtVx (x : Reg) : Statement (Instr.ldDtVx x) :=
  ⟨⟨"LD_DT_VX", 0xF015, 0xF0FF⟩, by decide, rfl, by simp only [OpcodeRow.selects, encode, mask_packX]; decide⟩
theorem ldStVx (x : Reg) : Statement (Instr.ldStVx x) :=
  ⟨⟨"LD_ST_VX", 0xF018, 0xF0FF⟩, by decide, rfl, by simp only [OpcodeRow.selects, encode, mask_packX]; decide⟩
theorem addI (x : Reg) : Statement (Instr.addI x) :=
  ⟨⟨"ADD_I", 0xF01E, 0xF0FF⟩, by decide, rfl, by simp only [OpcodeRow.selects, encode, mask_packX]; decide⟩
theorem ldF (x : Reg) : Statement (Instr.ldF x) :=
  ⟨⟨"LD_F", 0xF029, 0xF0FF⟩, by decide, rfl, by simp only [OpcodeRow.selects, encode, mask_packX]; decide⟩
theorem ldB (x : Reg) : Statement (Instr.ldB x) :=
  ⟨⟨"LD_B", 0xF033, 0xF0FF⟩, by decide, rfl, by simp only [OpcodeRow.selects, encode, mask_packX]; decide⟩
theorem stRegs (x : Reg) : Statement (Instr.stRegs x) :=
  ⟨⟨"ST_REGS", 0xF055, 0xF0FF⟩, by decide, rfl, by simp only [OpcodeRow.selects, encode, mask_packX]; decide⟩
theorem ldRegs (x : Reg) : Statement (Instr.ldRegs x) :=
  ⟨⟨"LD_REGS", 0xF065, 0xF0FF⟩, by decide, rfl, by simp only [OpcodeRow.selects, encode, mask_packX]; decide⟩
theorem sys (nnn : Addr) : Statement (Instr.sys nnn) :=
  ⟨⟨"SYS", 0x0000, 0xF000⟩, by decide, rfl, by simp only [OpcodeRow.selects, encode, mask_packNNN]; decide⟩

end Sys2Proof.Laws.EncodesItsRow
end

