-- ==== Sys2Proof/Tests/Slice0.lean ====
section
/-! SUPPORT. Tests/Slice0.lean: small tests of the model. Expected results are those of spec/95_test_vectors.md (the T and S
numbers) and of the encodings of 30_encoding.md R95, never the model's own answers. The last sections give, for every obligation
with hypotheses, states and operands that meet them. -/

namespace Sys2Proof.Tests

open Sys2Proof Sys2Proof.Machine

/-! ## Helpers -/

/-- The next state, if there is one. -/
def ended : Result → Option State
  | .next t => some t
  | _ => none

/-- What `f` gives in the state after instruction `i`. -/
def after {α : Type} (i : Instr) (s : State) (f : State → α) : Option α := (ended (exec i s)).map f

/-- What `f` gives in the state after one step. -/
def afterStep {α : Type} (s : State) (f : State → α) : Option α := (ended (step s)).map f

/-- The reset state. -/
def r0 : State := State.reset

/-- The reset state with V[1] = a, V[2] = b and VF = f. -/
def regs (a b f : Byte) : State := ((r0.setReg 1 a).setReg 2 b).setReg VF f

/-- The reset state with I = a. -/
def atI (a : Word) : State := r0.setI a

/-- The reset state with SP = n, every occupied slot holding 0x0ABC. -/
def depth (n : Fin 17) : State := { r0 with sp := n, stack := Vector.replicate 16 0x0ABC }

/-- The reset state with the word `w` at PC. -/
def placed (w : Word) : State := r0.placeWord w

/-- `MODE`, cause code, info, PC of the fault and PC. -/
def stopped (s : State) : Mode × BitVec 3 × Word × Word × Word := (s.mode, s.faultCause.code, s.faultInfo, s.faultPc, s.pc)

/-! ## Well-formed terms -/

theorem test_wf_sys : Instr.WellFormed (.sys 0x0E1) := by decide
theorem test_illformed_sys_cls : ¬ Instr.WellFormed (.sys 0x0E0) := by decide
theorem test_illformed_sys_ret : ¬ Instr.WellFormed (.sys 0x0EE) := by decide

/-! ## Decoding: every constructor by a word written out from its pattern in 30_encoding.md R95 -/

theorem test_decode_cls : decode 0b0000_0000_1110_0000#16 = .ok .cls := by decide
theorem test_decode_ret : decode 0b0000_0000_1110_1110#16 = .ok .ret := by decide
theorem test_decode_jp : decode 0b0001_1010_1011_1100#16 = .ok (.jp 0xABC) := by decide
theorem test_decode_call : decode 0b0010_0010_0000_1010#16 = .ok (.call 0x20A) := by decide
theorem test_decode_seImm : decode 0b0011_1010_0001_0000#16 = .ok (.seImm 10 0x10) := by decide
theorem test_decode_sneImm : decode 0b0100_0010_0001_0001#16 = .ok (.sneImm 2 0x11) := by decide
theorem test_decode_seReg : decode 0b0101_0001_0010_0000#16 = .ok (.seReg 1 2) := by decide
theorem test_decode_ldImm : decode 0b0110_1010_0111_1111#16 = .ok (.ldImm 10 0x7F) := by decide
theorem test_decode_addImm : decode 0b0111_0001_0000_0010#16 = .ok (.addImm 1 0x02) := by decide
theorem test_decode_ldReg : decode 0b1000_0001_0010_0000#16 = .ok (.ldReg 1 2) := by decide
theorem test_decode_or : decode 0b1000_0001_0010_0001#16 = .ok (.or 1 2) := by decide
theorem test_decode_and : decode 0b1000_0001_0010_0010#16 = .ok (.and 1 2) := by decide
theorem test_decode_xor : decode 0b1000_0001_0010_0011#16 = .ok (.xor 1 2) := by decide
theorem test_decode_addReg : decode 0b1000_0001_1111_0100#16 = .ok (.addReg 1 15) := by decide
theorem test_decode_sub : decode 0b1000_0001_0010_0101#16 = .ok (.sub 1 2) := by decide
theorem test_decode_shr : decode 0b1000_0011_1010_0110#16 = .ok (.shr 3 10) := by decide
theorem test_decode_subn : decode 0b1000_0001_0010_0111#16 = .ok (.subn 1 2) := by decide
theorem test_decode_shl : decode 0b1000_1111_1111_1110#16 = .ok (.shl 15 15) := by decide
theorem test_decode_sneReg : decode 0b1001_0001_0010_0000#16 = .ok (.sneReg 1 2) := by decide
theorem test_decode_ldI : decode 0b1010_0010_1111_0000#16 = .ok (.ldI 0x2F0) := by decide
theorem test_decode_jpV0 : decode 0b1011_0011_0000_0000#16 = .ok (.jpV0 0x300) := by decide
theorem test_decode_rnd : decode 0b1100_0011_0000_1111#16 = .ok (.rnd 3 0x0F) := by decide
theorem test_decode_drw : decode 0b1101_0000_0001_0010#16 = .ok (.drw 0 1 2) := by decide
theorem test_decode_skp : decode 0b1110_0101_1001_1110#16 = .ok (.skp 5) := by decide
theorem test_decode_sknp : decode 0b1110_0101_1010_0001#16 = .ok (.sknp 5) := by decide
theorem test_decode_ldVxDt : decode 0b1111_0100_0000_0111#16 = .ok (.ldVxDt 4) := by decide
theorem test_decode_ldVxK : decode 0b1111_0011_0000_1010#16 = .ok (.ldVxK 3) := by decide
theorem test_decode_ldDtVx : decode 0b1111_0100_0001_0101#16 = .ok (.ldDtVx 4) := by decide
theorem test_decode_ldStVx : decode 0b1111_0100_0001_1000#16 = .ok (.ldStVx 4) := by decide
theorem test_decode_addI : decode 0b1111_0010_0001_1110#16 = .ok (.addI 2) := by decide
theorem test_decode_ldF : decode 0b1111_0100_0010_1001#16 = .ok (.ldF 4) := by decide
theorem test_decode_ldB : decode 0b1111_0000_0011_0011#16 = .ok (.ldB 0) := by decide
theorem test_decode_stRegs : decode 0b1111_0011_0101_0101#16 = .ok (.stRegs 3) := by decide
theorem test_decode_ldRegs : decode 0b1111_0011_0110_0101#16 = .ok (.ldRegs 3) := by decide
theorem test_decode_sys : decode 0b0000_0001_1110_0000#16 = .ok (.sys 0x1E0) := by decide

/-- Words of the groups of 30_encoding.md R96 (T24, T25, T74, T75, T175, T176). -/
theorem test_decode_refuses : decode 0x5121 = .error (.unsupported 0x5121) ∧ decode 0x9121 = .error (.unsupported 0x9121) ∧
    decode 0x8128 = .error (.unsupported 0x8128) ∧ decode 0x812F = .error (.unsupported 0x812F) ∧
    decode 0xE59F = .error (.unsupported 0xE59F) ∧ decode 0xF4FF = .error (.unsupported 0xF4FF) := by decide

/-- Two bytes, the first the high one; the rest is given back; one byte is too few (30_encoding.md R90; 20_memory.md R62). -/
theorem test_decode_bytes : decodeBytes [0x6A, 0x7F, 0x12] = .ok (.ldImm 10 0x7F, [0x12]) ∧
    decodeBytes [0x6A] = .error .tooShort := by decide

/-- The table's numbering: bit 0 is the least significant bit of the one 16-bit word. -/
theorem test_decode_table_word : decodeTableWord 16 0x6A7F = some (.ldImm 10 0x7F) ∧ decodeTableWord 16 0xF4FF = none := by decide

/-! ## Control transfer -/

/-- T22. -/
theorem test_sys : after (.sys 0x0E1) r0 stopped = some (.halt, 1, 0x00E1, 0x200, 0x200) := by decide
/-- T8. -/
theorem test_ret : after .ret (depth 16) (fun t => (t.pc, t.sp.val, t.slot 15)) = some (0x0ABC, 15, 0x0ABC) := by decide
/-- T9. -/
theorem test_ret_empty : after .ret r0 stopped = some (.halt, 3, 0x00EE, 0x200, 0x200) := by decide
/-- T1. -/
theorem test_jp : after (.jp 0xABC) r0 State.pc = some 0x0ABC := by decide
/-- T6. -/
theorem test_call : after (.call 0x300) (depth 15) (fun t => (t.pc, t.sp.val, t.slot 15)) = some (0x300, 16, 0x202) := by decide
/-- T7. -/
theorem test_call_full : after (.call 0x300) (depth 16) (fun t => (stopped t, t.sp.val)) =
    some ((.halt, 2, 0x2300, 0x200, 0x200), 16) := by decide
/-- T11. -/
theorem test_seImm_vf : after (.seImm 15 0x01) (regs 0 0 1) State.pc = some 0x204 := by decide
/-- S8. -/
theorem test_seImm_not : after (.seImm 1 0x11) (regs 0x10 0 0) State.pc = some 0x202 := by decide
/-- T13, T14. -/
theorem test_sneImm : after (.sneImm 1 0x10) (regs 0x10 0 0) State.pc = some 0x202 ∧
    after (.sneImm 1 0x11) (regs 0x10 0 0) State.pc = some 0x204 := by decide
/-- T15, T16. -/
theorem test_seReg : after (.seReg 1 1) (regs 0x33 0 0) State.pc = some 0x204 ∧
    after (.seReg 1 2) (regs 1 2 0) State.pc = some 0x202 := by decide
/-- T17, T18. -/
theorem test_sneReg : after (.sneReg 1 1) (regs 0x33 0 0) State.pc = some 0x202 ∧
    after (.sneReg 1 2) (regs 7 8 0) State.pc = some 0x204 := by decide
/-- T19. -/
theorem test_jpV0 : after (.jpV0 0x2FE) (r0.setReg 0 2) State.pc = some 0x300 := by decide
/-- T20: not wrapped to 12 bits. -/
theorem test_jpV0_top : after (.jpV0 0xFFF) (r0.setReg 0 0xFF) State.pc = some 0x10FE := by decide

/-! ## Registers and ALU -/

/-- V[1] and VF after an instruction. -/
def oneAndFlag (t : State) : Byte × Byte := (t.reg 1, t.reg VF)

/-- T40. -/
theorem test_ldImm_vf : after (.ldImm 15 0x55) r0 (fun t => (t.reg VF, t.pc)) = some (0x55, 0x202) := by decide
/-- T41. -/
theorem test_addImm_keeps_vf : after (.addImm 1 0x02) (regs 0xFF 0 1) oneAndFlag = some (0x01, 0x01) := by decide
/-- T42. -/
theorem test_addImm_vf : after (.addImm 15 0x01) (regs 0 0 0xFF) oneAndFlag = some (0, 0) := by decide
/-- T44. -/
theorem test_ldReg : after (.ldReg 1 2) (regs 0 0x3C 0) oneAndFlag = some (0x3C, 0) := by decide
/-- T45. -/
theorem test_or : after (.or 1 2) (regs 0xF0 0x0F 1) oneAndFlag = some (0xFF, 1) := by decide
/-- T46. -/
theorem test_and : after (.and 1 2) (regs 0xF0 0x3C 1) oneAndFlag = some (0x30, 1) := by decide
/-- T47. -/
theorem test_xor : after (.xor 1 2) (regs 0xF0 0x3C 1) oneAndFlag = some (0xCC, 1) := by decide
/-- T50, T53: sum 255 clears the flag; y = 15 adds the old VF. -/
theorem test_addReg : after (.addReg 1 2) (regs 0xFE 0x01 1) oneAndFlag = some (0xFF, 0) ∧
    after (.addReg 1 15) (regs 0xFF 0 1) oneAndFlag = some (0, 1) := by decide
/-- T54, T55: with x = 15 the flag wins. -/
theorem test_addReg_vf : after (.addReg 15 1) (regs 0x20 0 0xF0) (State.reg · VF) = some 1 ∧
    after (.addReg 15 1) (regs 0x20 0 0x10) (State.reg · VF) = some 0 := by decide
/-- T56, T57. -/
theorem test_sub : after (.sub 1 2) (regs 0x05 0x0A 1) oneAndFlag = some (0xFB, 0) ∧
    after (.sub 1 2) (regs 0x0A 0x05 0) oneAndFlag = some (0x05, 1) := by decide
/-- T58, T61: equal operands give flag 0; with x = 15 the flag wins. -/
theorem test_sub_equal : after (.sub 1 2) (regs 7 7 1) oneAndFlag = some (0, 0) ∧
    after (.sub 15 1) (regs 3 0 9) (State.reg · VF) = some 1 := by decide
/-- T66: V[y] is neither read nor written. -/
theorem test_shr : after (.shr 1 2) (regs 0x04 0xFF 1) (fun t => (oneAndFlag t, t.reg 2)) = some ((0x02, 0), 0xFF) := by decide
/-- T65, T68. -/
theorem test_shr_out : after (.shr 1 0) (regs 0x05 0 0) oneAndFlag = some (0x02, 1) ∧
    after (.shr 15 0) (regs 0 0 0x02) (State.reg · VF) = some 0 := by decide
/-- T62, T63. -/
theorem test_subn : after (.subn 1 2) (regs 0x05 0x0A 0) oneAndFlag = some (0x05, 1) ∧
    after (.subn 1 2) (regs 0x0A 0x05 1) oneAndFlag = some (0xFB, 0) := by decide
/-- T64. -/
theorem test_subn_equal : after (.subn 1 2) (regs 7 7 1) oneAndFlag = some (0, 0) := by decide
/-- T69, T70. -/
theorem test_shl : after (.shl 1 0) (regs 0x81 0 0) oneAndFlag = some (0x02, 1) ∧
    after (.shl 1 0) (regs 0x40 0 1) oneAndFlag = some (0x80, 0) := by decide
/-- T71. -/
theorem test_shl_vf : after (.shl 15 15) (regs 0 0 0x80) (State.reg · VF) = some 1 := by decide
/-- T73: with nn = 0 the only draw is 0. -/
theorem test_rnd_zero : after (.rnd 1 0) (regs 7 0 0) (fun t => (t.reg 1, t.draws)) = some (0, 1) := by
  simp [after, ended, exec, execRnd, State.draw, regs, r0, State.reset, State.setReg, State.reg, State.countDraw,
    State.advance, State.setPc, Nat.mod_one]

/-! ## Index register and memory -/

/-- T90. -/
theorem test_ldI : after (.ldI 0x2F0) (atI 0xFFFF) State.i = some 0x02F0 := by decide
/-- T91, T92. -/
theorem test_addI : after (.addI 1) ((regs 1 0 1).setI 0x0FFE) (fun t => (t.i, t.reg VF)) = some (0x0FFF, 0) ∧
    after (.addI 1) ((regs 1 0 0).setI 0x0FFF) (fun t => (t.i, t.reg VF)) = some (0x1000, 1) := by decide
/-- T95, T96: the wrap; x = 15. -/
theorem test_addI_wrap : after (.addI 1) ((regs 2 0 0).setI 0xFFFF) (fun t => (t.i, t.reg VF)) = some (0x0001, 1) ∧
    after (.addI 15) ((regs 0 0 5).setI 0x0010) (fun t => (t.i, t.reg VF)) = some (0x0015, 0) := by decide
/-- T98, T99. -/
theorem test_ldF : after (.ldF 1) (regs 0x1A 0 0) State.i = some 0x0032 ∧
    after (.ldF 1) (regs 0xFF 0 0) State.i = some 0x004B := by decide
/-- T104. -/
theorem test_ldB : after (.ldB 1) ((regs 0x7B 0 0).setI 0xFFD) (fun t => (t.byte 0xFFD, t.byte 0xFFE, t.byte 0xFFF)) =
    some (1, 2, 3) := by decide
/-- T105. -/
theorem test_ldB_range : after (.ldB 1) ((regs 0x7B 0 0).setI 0xFFE) (fun t => (stopped t, t.byte 0xFFE)) =
    some ((.halt, 4, 0x1000, 0x200, 0x200), 0) := by decide
/-- T108 with two registers: V0 lowest, I unchanged, the next byte untouched. -/
theorem test_stRegs : after (.stRegs 1) ((regs 0x16 0x21 0).setI 0x400) (fun t => (t.byte 0x400, t.byte 0x401, t.byte 0x402, t.i)) =
    some (0, 0x16, 0, 0x400) := by decide
/-- T111. -/
theorem test_stRegs_range : after (.stRegs 15) ((regs 2 3 16).setI 0xFF1) (fun t => (stopped t, t.mem)) =
    some ((.halt, 4, 0x1000, 0x200, 0x200), []) := by decide
/-- T113, T114: the font's first bytes; registers above x keep their values. -/
theorem test_ldRegs : after (.ldRegs 1) ((regs 7 8 0).setI 4) (fun t => (t.reg 0, t.reg 1, t.reg 2)) =
    some (0xF0, 0x20, 8) := by decide
/-- T116. -/
theorem test_ldRegs_range : after (.ldRegs 1) ((regs 7 8 0).setI 0xFFF) (fun t => (stopped t, t.reg 1)) =
    some ((.halt, 4, 0x1000, 0x200, 0x200), 7) := by decide

/-! ## Display -/

/-- The reset state with V[0] = a, V[1] = b, VF = f, I = 0x300 and the byte m there. -/
def drawing (a b f m : Byte) : State :=
  ((((r0.setReg 0 a).setReg 1 b).setReg VF f).setI 0x300).storeBytes 0x300 [m]

/-- `s` with pixel (r, c) foreground. -/
def lit (s : State) (r : Fin 32) (c : Fin 64) : State := s.setFb (FrameBuffer.put s.fb r c true)

/-- T130. -/
theorem test_cls : after .cls (lit (regs 0 0 1) 31 63) (fun t => (t.pixel 31 63, t.reg VF)) = some (false, 1) := by decide
/-- T133. -/
theorem test_drw : after (.drw 0 1 1) (lit (drawing 0 0 0 0xF0) 0 3)
    (fun t => (t.pixel 0 0, t.pixel 0 2, t.pixel 0 3, t.pixel 0 4, t.reg VF)) = some (true, true, false, false, 1) := by decide
/-- T132 with one row: each pixel wraps by itself; T135: no access with n = 0. -/
theorem test_drw_wraps : after (.drw 0 1 1) (drawing 62 31 0 0x81)
    (fun t => (t.pixel 31 62, t.pixel 31 5, t.pixel 0 5, t.reg VF)) = some (true, true, false, 0) ∧
    after (.drw 0 1 0) ((regs 0 0 1).setI 0xFFFF) (fun t => (t.mode, t.reg VF)) = some (.run, 0) := by decide

/-! ## Keypad and timers -/

/-- T160, T161. -/
theorem test_skp : after (.skp 1) ((regs 0x0A 0 0).setKeys 0x0400) State.pc = some 0x204 ∧
    after (.skp 1) ((regs 0x0A 0 0).setKeys 0xFBFF) State.pc = some 0x202 := by decide
/-- T165. -/
theorem test_skp_range : after (.skp 1) ((regs 0x10 0 0).setKeys 0xFFFF) stopped = some (.halt, 5, 0x0010, 0x200, 0x200) := by
  decide
/-- T162, T163. -/
theorem test_sknp : after (.sknp 1) (regs 0x0A 0 0) State.pc = some 0x204 ∧
    after (.sknp 1) ((regs 0x0A 0 0).setKeys 0x0400) State.pc = some 0x202 := by decide
/-- T166. -/
theorem test_sknp_range : after (.sknp 1) (regs 0xFF 0 0) stopped = some (.halt, 5, 0x00FF, 0x200, 0x200) := by decide
/-- T167. -/
theorem test_ldVxK : after (.ldVxK 3) (r0.setKeys 0x0020) (fun t => (t.reg 3, t.pc, t.mode)) = some (5, 0x202, .run) := by decide
/-- T168. -/
theorem test_ldVxK_waits : after (.ldVxK 3) r0 (fun t => (t.waitReg, t.pc, t.mode)) = some (3, 0x200, .waitKey) := by decide
/-- T172. -/
theorem test_ldVxDt : after (.ldVxDt 4) (r0.setDt 0x2A) (fun t => (t.reg 4, t.pc)) = some (0x2A, 0x202) := by decide
/-- T173. -/
theorem test_ldDtVx : after (.ldDtVx 1) ((regs 5 0 0).setDt 200) State.dt = some 5 := by decide
/-- T174. -/
theorem test_ldStVx : after (.ldStVx 1) (regs 5 0 0) State.st = some 5 := by decide

/-! ## Steps -/

/-- T3, T4: PC out of range. -/
theorem test_step_range : afterStep (r0.setPc 0xFFF) stopped = some (.halt, 4, 0x1000, 0xFFF, 0xFFF) ∧
    afterStep (r0.setPc 0x10FE) stopped = some (.halt, 4, 0x10FE, 0x10FE, 0x10FE) := by decide
/-- T26: an odd PC executes. -/
theorem test_step_odd : afterStep ((r0.setPc 0x201).placeWord 0x6A7F) (fun t => (t.reg 10, t.pc)) = some (0x7F, 0x203) := by decide
/-- T24. -/
theorem test_step_unsupported : afterStep (placed 0x5121) stopped = some (.halt, 1, 0x5121, 0x200, 0x200) := by decide
/-- T27: the unsupported word is skipped without a fault. -/
theorem test_step_skips : afterStep (r0.storeBytes 0x200 [0x30, 0x00, 0xFF, 0xFF]) State.pc = some 0x204 := by decide
/-- T28. -/
theorem test_step_halted : afterStep ((placed 0x6A7F).raise .unsupportedInstruction 0) (fun t => (t.reg 10, t.mode)) =
    some (0, .halt) := by decide
/-- T170. -/
theorem test_step_wait : afterStep (((r0.setMode .waitKey).setWaitReg 3).setKeys 0x8100) (fun t => (t.reg 3, t.pc, t.mode)) =
    some (8, 0x202, .run) := by decide
/-- T190, T194, T195. -/
theorem test_tick : afterStep (((r0.setDt 5).setSt 1).setScript [.tick]) (fun t => (t.dt, t.st)) = some (4, 0) ∧
    afterStep (((r0.setDt 2).setMode .waitKey).setScript [.tick]) (fun t => (t.dt, t.mode)) = some (1, .waitKey) ∧
    afterStep (((r0.setDt 2).setMode .halt).setScript [.tick]) State.dt = some 2 := by decide
/-- T204, T205. -/
theorem test_reset_event : afterStep ((r0.raise .stackUnderflow 0).setScript [.reset [0x01]])
    (fun t => (t.mode, t.faultCause, t.byte 0x200, t.byte 0x201)) = some (.run, .none, 1, 0) := by decide
/-- The byte at `a` after `Reset` with an image of `n` bytes 7. -/
def imageByte (n a : Nat) : Byte := (r0.resetWith (List.replicate n 7)).byte a
/-- T202, T203 and one byte less than a full image. -/
theorem test_reset_image : imageByte 3584 0xFFF = 7 ∧ imageByte 4000 0xFFF = 7 ∧ imageByte 3583 0xFFF = 0 := by
  have h : ∀ n : Nat, imageByte n 0xFFF =
      if 0x200 ≤ 0xFFF ∧ 0xFFF < 0x200 + min 3584 n then ((List.replicate n (7 : Byte)).take 3584).getD 3583 0 else 0 := fun n => by
    show Memory.read (Memory.writeBytes [] 0x200 ((List.replicate n 7).take 3584)) 0xFFF = _
    rw [Memory.read_writeBytes, List.length_take, List.length_replicate]; rfl
  have g : ∀ n : Nat, 3583 < n → ((List.replicate n (7 : Byte)).take 3584).getD 3583 0 = 7 := fun n hn => by
    rw [List.getD_eq_getElem?_getD, List.getElem?_take, if_pos (by omega), List.getElem?_replicate, if_pos hn]; rfl
  refine ⟨?_, ?_, ?_⟩
  · rw [h, if_pos (by omega), g _ (by omega)]
  · rw [h, if_pos (by omega), g _ (by omega)]
  · rw [h, if_neg (by omega)]
/-- The parameters are those of 00_scope.md R8, and `MAX_IMAGE` is `MEM_SIZE - PROG_BASE`. -/
theorem test_params : params.maxImage = params.memSize - params.progBase ∧ params.font.length = 80 ∧ params.fontBase = 0 ∧
    params.numRegs = 2 ^ 4 ∧ params.displayW = 64 ∧ params.displayH = 32 ∧ params.addrWidth = 16 := by decide
/-- The other reading of each open parameter (T54, T68, T94, T165 under `result`, `0xF00` and `mask`). -/
theorem test_params_alternatives :
    let p : Params := { params with vfWritePriority := .result, keyIndexPolicy := .mask, fx1eLimit := 0xF00 }
    ((regs 0x20 0 0xF0).setResultFlag p VF 0x10 true).reg VF = 0x10 ∧ indexOverflow p 0x0EFF 1 = true ∧
    keyIndex p 0x10 = some 0 := by decide
/-- The key levels of a `Step` event are those its instruction sees (10_state.md R32). -/
theorem test_step_keys : afterStep ((placed 0xF30A).setScript [.step 0x0020, .tick]) (fun t => (t.reg 3, t.script)) =
    some (5, [.tick]) := by decide
/-- An instruction placed at reset is the one the first step runs (S1). -/
theorem test_placed_at_reset : afterStep (State.reset.withFetchWord 16 0x6A7F) (fun t => (t.reg 10, t.pc)) = some (0x7F, 0x202) := by
  decide
/-- Placing in a state that could not fetch makes it ready. -/
theorem test_placed_when_halted :
    afterStep ((((r0.setPc 0xFFF).setMode .halt).setScript [.tick]).withFetchWord 16 0x6A7F) (fun t => (t.reg 10, t.pc)) =
    some (0x7F, 0x202) := by decide

/-! ## Witnesses: states and operands that meet the hypotheses of each obligation, at the boundary of each clause -/

theorem test_witness_DecodeInvertsEncode : Instr.WellFormed (.sys 0x0E1) ∧ Instr.WellFormed (.drw 15 15 15) := by decide

theorem test_witness_EncodeInvertsDecode : decode 0x8FFE = .ok (.shl 15 15) ∧ decode 0x00E1 = .ok (.sys 0x0E1) := by decide

theorem test_witness_DecoderTakesFirstMatchingRow : decode 0x00E0 = .ok .cls ∧ decode 0x800F = .error (.unsupported 0x800F) ∧
    ∃ p ∈ opcodeMap.take 34, p.selects 0xF065 = true := by decide

theorem test_witness_PlacedInstructionRunsNext :
    Instr.WellFormed (.sys 0xFFF) ∧ (r0.setPc 0xFFE).mode = .run ∧ (r0.setPc 0xFFE).pc.toNat ≤ 0xFFE ∧
    (r0.setPc 0xFFE).script = [] := by decide

/-- A state whose next transition is a `Step` taken from the list. -/
def stepping (s : State) (keys : BitVec 16) : State := s.setScript [.step keys]

theorem stepping_next (s : State) (keys : BitVec 16) : StepIsNext (stepping s keys) := .inr ⟨keys, [], rfl⟩

theorem test_witness_StepRunsDecodedInstruction :
    StepIsNext (stepping ((r0.setPc 0xFFE).placeWord 0x6A7F) 1) ∧ ((r0.setPc 0xFFE).placeWord 0x6A7F).mode = .run ∧
    ((r0.setPc 0xFFE).placeWord 0x6A7F).pc.toNat ≤ 0xFFE ∧
    decode (((r0.setPc 0xFFE).placeWord 0x6A7F).byte 0xFFE ++ ((r0.setPc 0xFFE).placeWord 0x6A7F).byte 0xFFF) =
      .ok (.ldImm 10 0x7F) := ⟨stepping_next _ _, by decide⟩

theorem test_witness_FetchReadsTwoBytesOrRaises :
    StepIsNext (r0.setPc 0xFFF) ∧ (r0.setPc 0xFFF).mode = .run ∧ 0xFFE < (r0.setPc 0xFFF).pc.toNat ∧
    (r0.setPc 0xFFE).pc.toNat ≤ 0xFFE := ⟨.inl rfl, by decide⟩

theorem test_witness_UnsupportedWordRaises :
    StepIsNext (placed 0xE59F) ∧ (placed 0xE59F).mode = .run ∧ (placed 0xE59F).pc.toNat ≤ 0xFFE ∧
    unsupportedWord (placed 0xE59F).fetchWord = true ∧ unsupportedWord (placed 0x00EE).fetchWord = false ∧
    afterStep (placed 0x00EE) State.mode = some .halt := ⟨.inl rfl, by decide⟩

/-- A halted state. -/
def halted : State := r0.raise .stackUnderflow 0x00EE

theorem test_witness_HaltIgnoresStepAndTick :
    halted.mode = .halt ∧ (halted.setScript [.tick]).script = [.tick] ∧ StepIsNext halted := ⟨rfl, rfl, .inl rfl⟩

theorem test_witness_OnlyResetLeavesHalt :
    (halted.setScript [.reset []]).mode = .halt ∧ afterStep (halted.setScript [.reset []]) State.mode = some .run := by decide

theorem test_witness_FaultsArePrecise : r0.mode ≠ .halt ∧ afterStep r0 State.mode = some .halt ∧
    ((r0.setMode .waitKey).setPc 0xFFF).mode ≠ .halt := by decide

/-- A state that waits for a key, at its own `FF0A`. -/
def waiting (keys : BitVec 16) : State := (((placed 0xFF0A).setMode .waitKey).setWaitReg 15).setKeys keys

theorem test_witness_WaitWithoutKeyChangesNothing :
    StepIsNext (waiting 0) ∧ (waiting 0).mode = .waitKey ∧ (atStep (waiting 0)).keys = 0 ∧
    (atStep (stepping (waiting 0xFFFF) 0)).keys = 0 := ⟨.inl rfl, by decide⟩

theorem test_witness_WaitEndsWithLowestKey :
    StepIsNext (stepping (waiting 0) 0x8000) ∧ (stepping (waiting 0) 0x8000).mode = .waitKey ∧
    (atStep (stepping (waiting 0) 0x8000)).keys ≠ 0 ∧ (atStep (waiting 0x0001)).keys ≠ 0 := ⟨stepping_next _ _, by decide⟩

theorem test_witness_IdleLoopStays : Safety.Idle (stepping (placed 0x1200) 0xFFFF) ∧
    StepIsNext (stepping (placed 0x1200) 0xFFFF) ∧ StepIsNext (placed 0x1200) :=
  ⟨⟨rfl, by decide, 0x200, by decide, by decide⟩, stepping_next _ _, .inl rfl⟩

/-- The last address of `M` with an image of 3584 bytes (image[3583] is there), of 3583 bytes (0 is there), and the first address. -/
theorem test_witness_ResetLoadsTheImage : r0.script = [] ∧ (0x200 ≤ 0x200 ∧ 0x200 ≤ 0xFFF) ∧ (0x200 ≤ 0xFFF ∧ 0xFFF ≤ 0xFFF) ∧
    0xFFF - 0x200 < min (List.replicate 3584 (7 : Byte)).length 3584 ∧
    ¬ 0xFFF - 0x200 < min (List.replicate 3583 (7 : Byte)).length 3584 := by
  simp only [List.length_replicate]; exact ⟨rfl, by omega, by omega, by omega, by omega⟩

theorem test_witness_ResetLoadsTheFont : 0 < 0x200 ∧ 79 < 80 ∧ ¬ 80 < 80 ∧ 0x1FF < 0x200 := by decide

theorem test_witness_ResetClearsTheRegisters : (((regs 1 2 3).setI 4).setScript [.reset []]).script = [.reset []] := rfl

theorem test_witness_ResetSetsTheSourcesValues : (halted.setScript [.reset [1], .tick]).script = .reset [1] :: [.tick] := rfl

theorem test_witness_TickCountsTheTimersDown :
    (((r0.setDt 1).setSt 0).setScript [.tick]).script = [.tick] ∧ ((r0.setDt 1).setSt 0).mode ≠ .halt ∧
    ((r0.setDt 1).setSt 0).dt ≠ 0 ∧ ((r0.setDt 1).setSt 0).st = 0 ∧ (halted.setScript [.tick]).mode = .halt := by decide

theorem test_witness_TicksReachZeroAndStay : (r0.setDt 5).mode ≠ .halt ∧ (waiting 0).mode ≠ .halt := by decide

theorem test_witness_RetPopsOrUnderflows : (depth 0).sp.val = 0 ∧ 0 < (depth 1).sp.val ∧ 0 < (depth 16).sp.val := by decide

theorem test_witness_CallPushesOrOverflows : (depth 16).sp.val = 16 ∧ (depth 15).sp.val < 16 ∧ (depth 0).sp.val < 16 := by decide

theorem test_witness_CallThenRetReturns :
    (depth 15).sp.val < 16 ∧ after (.call 0x300) (depth 15) (fun t => (t.sp.val, t.pc)) = some (16, 0x300) := by decide

theorem test_witness_AddRegisterCarries : (14 : Reg) ≠ VF ∧ (0 : Reg) ≠ VF := by decide

theorem test_witness_SubtractionsFlagStrictlyGreater : (14 : Reg) ≠ VF ∧ (0 : Reg) ≠ VF := by decide

theorem test_witness_ShiftsInPlace : (14 : Reg) ≠ VF ∧ (0 : Reg) ≠ VF := by decide

theorem test_witness_AddIndexFlagsOutOfRange :
    (atI 0xFFFF).i.toNat + ((atI 0xFFFF).reg 2).toNat < 65536 ∧ (atI 0xFFFF).i.toNat + ((atI 0xFFFF).reg 2).toNat = 65535 := by
  decide

theorem test_witness_AddIndexWraps : 65536 ≤ ((regs 1 0 0).setI 0xFFFF).i.toNat + ((regs 1 0 0).reg 1).toNat ∧
    ((regs 1 0 0).setI 0xFFFF).i.toNat + ((regs 1 0 0).reg 1).toNat = 65536 := by decide

theorem test_witness_StoreDecimalDigits : 0xFFF < (atI 0xFFE).i.toNat + 2 ∧ (atI 0xFFD).i.toNat + 2 ≤ 0xFFF := by decide

theorem test_witness_StoreRegisterBlock :
    0xFFF < (atI 0xFF1).i.toNat + (15 : Reg).toNat ∧ (atI 0xFF0).i.toNat + (15 : Reg).toNat ≤ 0xFFF ∧
    0xFFF < (atI 0x1000).i.toNat + (0 : Reg).toNat ∧ (atI 0xFFF).i.toNat + (0 : Reg).toNat ≤ 0xFFF := by decide

theorem test_witness_LoadRegisterBlock :
    0xFFF < (atI 0xFF1).i.toNat + (15 : Reg).toNat ∧ (atI 0xFF0).i.toNat + (15 : Reg).toNat ≤ 0xFFF ∧
    0xFFF < (atI 0x1000).i.toNat + (0 : Reg).toNat ∧ (atI 0xFFF).i.toNat + (0 : Reg).toNat ≤ 0xFFF := by decide

theorem test_witness_StoreThenLoadRestores :
    (atI 0xFF0).i.toNat + (15 : Reg).toNat ≤ 0xFFF ∧ ∃ t u, exec (.stRegs 15) (atI 0xFF0) = .next t ∧
      (∀ a, State.byte u a = State.byte t a) ∧ u.i = t.i ∧ u.reg 0 ≠ t.reg 0 := by
  refine ⟨by decide, _, State.setReg ((atI 0xFF0).storeBytes 0xFF0 ((atI 0xFF0).block 15)) 0 1, rfl, ?_, by decide, by decide⟩
  intro a; rfl

/-- An `F155` at 0x3FE that overwrites the two bytes after itself. -/
def overwriting : State := ((regs 0x7F 0 0).setReg 0 0x6A).setI 0x400 |>.setPc 0x3FE

theorem test_witness_StoreSeenByNextFetch :
    (0 : Reg).toNat + 1 ≤ (1 : Reg).toNat ∧ overwriting.i.toNat + (1 : Reg).toNat ≤ 0xFFF ∧
    after (.stRegs 1) overwriting (fun t => t.pc.toNat) = some (overwriting.i.toNat + (0 : Reg).toNat) := by decide

theorem test_witness_DrawTogglesTheSprite :
    (0 < (1 : Nibble).toNat ∧ 0xFFF < (atI 0x1000).i.toNat + (1 : Nibble).toNat - 1) ∧
    (0 < (15 : Nibble).toNat ∧ 0xFFF < (atI 0xFF2).i.toNat + (15 : Nibble).toNat - 1) ∧
    ((atI 0xFF1).i.toNat + (15 : Nibble).toNat - 1 ≤ 0xFFF) ∧ ((0 : Nibble).toNat = 0) ∧
    (atI 0xFFF).i.toNat + (1 : Nibble).toNat - 1 ≤ 0xFFF := by decide

/-- A sprite pixel that is foreground before the draw (VF becomes 1), and one that is not. -/
theorem test_witness_DrawTogglesTheSprite_collision :
    (∃ r c, InSprite (lit (drawing 0 0 0 0x80) 0 0) 0 0 1 r c ∧ (lit (drawing 0 0 0 0x80) 0 0).pixel r c = true) ∧
    (∀ r c, InSprite (drawing 0 0 0 0x80) 0 0 1 r c → (drawing 0 0 0 0x80).pixel r c = false) := by
  refine ⟨⟨0, 0, ⟨0, 0, by decide, by decide, by decide, by decide, by decide⟩, by decide⟩, fun r c _ => ?_⟩
  simp [State.pixel, FrameBuffer.get, drawing, r0, State.reset, FrameBuffer.blank, State.storeBytes, State.setMem, State.setI,
    State.setReg]

theorem test_witness_DrawTwiceRestores :
    (14 : Reg) ≠ VF ∧ (0 : Reg) ≠ VF ∧ (atI 0xFFF).i.toNat + (1 : Nibble).toNat - 1 ≤ 0xFFF ∧
    ∃ t u, exec (.drw 14 0 1) (atI 0xFFF) = .next t ∧ exec (.drw 14 0 1) t = .next u :=
  ⟨by decide, by decide, by decide, _, _, rfl, rfl⟩

theorem test_witness_KeySkipsTestTheLevel : ((regs 15 0 0).reg 1).toNat ≤ 15 ∧ (r0.reg 1).toNat ≤ 15 := by decide

theorem test_witness_KeyIndexAboveFifteenRaises : 15 < ((regs 16 0 0).reg 1).toNat ∧ 15 < ((regs 255 0 0).reg 1).toNat := by decide

theorem test_witness_KeyWaitCompletesOrWaits : (waiting 0x8000).keys ≠ 0 ∧ (waiting 0).keys = 0 := by decide

theorem test_witness_LowestKeyIsReported :
    (waiting 0x8000).keys.getLsbD 15 = true ∧ (∀ j, j < 15 → (waiting 0x8000).keys.getLsbD j = false) := by decide

theorem test_witness_EveryInstructionKeepsItsFrame :
    (∃ t, exec (.ldRegs 15) (atI 0xFF0) = .next t) ∧ (∃ t, exec (.stRegs 15) (atI 0xFF1) = .next t) ∧
    0xFEF ∉ storedAddrs (.stRegs 15) (atI 0xFF0) ∧ 0xFF0 ∈ storedAddrs (.stRegs 15) (atI 0xFF0) ∧
    0xFFF ∈ storedAddrs (.stRegs 15) (atI 0xFF0) ∧ 0x303 ∉ storedAddrs (.ldB 0) (atI 0x300) ∧
    0x302 ∈ storedAddrs (.ldB 0) (atI 0x300) := ⟨⟨_, rfl⟩, ⟨_, rfl⟩, by decide⟩

theorem test_witness_PcEffectsAsTheTableSays :
    r0.mode = .run ∧ after (.jpV0 0xFFF) (r0.setReg 0 0xFF) (fun t => (t.mode, t.pc)) = some (.run, 0x10FE) := by decide

theorem test_witness_FlagIsZeroOrOne :
    r0.mode ≠ .halt ∧ after (.shl 15 0) (regs 0 0 0x80) State.mode = some .run ∧
    after (.drw 0 1 0) (atI 0xFFFF) State.mode = some .run := by decide

theorem test_reset_invariant : Invariant r0 := by
  constructor
  · intro j hj; exact absurd hj (by simp [r0, State.reset])
  · intro h; exact absurd h (by decide)
  · decide
  · decide

theorem test_witness_StepKeepsTheInvariant : Invariant r0 ∧ ∃ t, step r0 = .next t := ⟨test_reset_invariant, _, rfl⟩

theorem test_witness_StepKeepsTheMemoryForm : MemoryInForm (placed 0xF355) ∧ ∃ t, step (placed 0xF355) = .next t :=
  ⟨by unfold MemoryInForm Memory.wf; decide, _, rfl⟩

theorem test_witness_EverySchedulesStatesHaveTheInvariant :
    ∃ t, Host.Core.run Sys2Proof.core 3 (State.reset.setScript [.tick, .reset [0x12, 0x00], .step 1]) = .next t ∧ t.mode = .run :=
  ⟨_, rfl, by decide⟩

end Sys2Proof.Tests
end

section
/-! The control transfer family (40_cycle_control.md R124 to R132): how PC and the stack
operations sit in a frame, one equation per outcome of RET and CALL, the targets as numbers, and the obligations settled from them. -/

namespace Sys2Proof

open Sys2Proof.Machine

/-! ### Frames: PC is outside every frame, push and pop touch the stack only -/

/-- Every state is within every frame of itself. -/
theorem UnchangedExcept.refl (regs : List Reg) (parts : List Part) (s : State) : UnchangedExcept regs parts s s := by
  constructor <;> simp

/-- A write of PC keeps any frame: `UnchangedExcept` says nothing of PC. -/
theorem UnchangedExcept.setPc {regs : List Reg} {parts : List Part} {s t : State} (h : UnchangedExcept regs parts s t)
    (a : Address) : UnchangedExcept regs parts s (t.setPc a) := by
  cases h
  constructor <;> assumption

namespace Machine

theorem State.unchangedExcept_push (s : State) (a : Address) (h : s.sp.val < 16) :
    UnchangedExcept [] [.stack] s (s.push a h) := by
  constructor <;> simp

theorem State.unchangedExcept_pop (s : State) : UnchangedExcept [] [.stack] s s.pop := by
  constructor <;> simp

/-- A conditional skip writes PC and nothing else (40_cycle_control.md R122). -/
theorem State.unchangedExcept_skipIf (s : State) (c : Bool) : UnchangedExcept [] [] s (s.skipIf c) := by
  rw [State.skipIf_eq]
  exact (UnchangedExcept.refl [] [] s).setPc _

/-! ### The outcomes of RET and CALL -/

theorem exec_ret_of_empty {s : State} (h : s.sp.val = 0) :
    exec .ret s = .next (s.raise .stackUnderflow 0x00EE) := if_pos h

theorem exec_ret_of_occupied {s : State} (h : 0 < s.sp.val) :
    exec .ret s = .next (s.pop.setPc (s.slot (s.sp.val - 1))) := if_neg h.ne'

theorem exec_call_of_full (nnn : Addr) {s : State} (h : s.sp.val = 16) :
    exec (.call nnn) s = .next (s.raise .stackOverflow (0x2#4 ++ nnn)) := dif_neg (by omega)

theorem exec_call_of_room (nnn : Addr) {s : State} (h : s.sp.val < 16) :
    exec (.call nnn) s = .next ((s.push (s.pc + 2#16) h).setPc (addrWord nnn)) := dif_pos h

/-! ### Jump targets as numbers -/

/-- The sum of R132 has 13 bits, so it fits in PC unreduced. -/
theorem State.v0Target_toNat (s : State) (nnn : Addr) :
    (s.v0Target nnn).toNat = nnn.toNat + (s.reg 0).toNat := by
  have hsum : nnn.toNat + (s.reg 0).toNat < 65536 := by
    have := nnn.isLt
    have := (s.reg 0).isLt
    omega
  rw [State.v0Target, BitVec.toNat_add, addrWord_toNat, byteWord_toNat]
  exact Nat.mod_eq_of_lt hsum

/-! ### The obligations -/

/-- Settles O23: SYS is the fault entry on its own encoding. -/
theorem sysAlwaysRaises : Obligations.SysAlwaysRaises := fun nnn s =>
  ⟨s.raise .unsupportedInstruction (encode (.sys nnn)), rfl, s.raise_only _ _⟩

/-- Settles O24, by the two outcomes of RET. -/
theorem retPopsOrUnderflows : Obligations.RetPopsOrUnderflows := by
  refine fun s => ⟨fun hempty => ?_, fun hoccupied => ?_⟩
  · exact ⟨_, exec_ret_of_empty hempty, s.raise_only _ _⟩
  · exact ⟨_, exec_ret_of_occupied hoccupied, State.setPc_pc _ _, s.pop_sp, s.pop_slot, s.unchangedExcept_pop.setPc _⟩

/-- Settles O25: both jumps only write PC, with a target that fits in it. -/
theorem jumpsGoToTheirTargets : Obligations.JumpsGoToTheirTargets := by
  refine fun nnn s => ⟨⟨s.setPc (addrWord nnn), rfl, ?_, ?_⟩, ⟨s.setPc (s.v0Target nnn), rfl, ?_, ?_⟩⟩
  · exact addrWord_toNat nnn
  · exact (UnchangedExcept.refl [] [] s).setPc _
  · exact s.v0Target_toNat nnn
  · exact (UnchangedExcept.refl [] [] s).setPc _

/-- Settles O26, by the two outcomes of CALL. -/
theorem callPushesOrOverflows : Obligations.CallPushesOrOverflows := by
  refine fun nnn s => ⟨fun hfull => ?_, fun hroom => ?_⟩
  · exact ⟨_, exec_call_of_full nnn hfull, s.raise_only _ _⟩
  · refine ⟨_, exec_call_of_room nnn hroom, addrWord_toNat nnn, s.push_sp (s.pc + 2#16) hroom, ?_, fun j hj => ?_,
      (s.unchangedExcept_push _ hroom).setPc _⟩
    · rw [State.setPc_slot, State.push_slot, if_pos rfl]
    · rw [State.setPc_slot, State.push_slot, if_neg hj]

/-- Settles O28: each of the four is a conditional skip on the comparison of its operands. -/
theorem skipsCompareTheirOperands : Obligations.SkipsCompareTheirOperands := by
  refine fun x y nn s => ⟨⟨s.skipIf (s.reg x == nn), rfl, ?_, s.unchangedExcept_skipIf _⟩,
    ⟨s.skipIf (s.reg x != nn), rfl, ?_, s.unchangedExcept_skipIf _⟩,
    ⟨s.skipIf (s.reg x == s.reg y), rfl, ?_, s.unchangedExcept_skipIf _⟩,
    ⟨s.skipIf (s.reg x != s.reg y), rfl, ?_, s.unchangedExcept_skipIf _⟩⟩
  all_goals simp [State.skipIf_eq]

end Machine

end Sys2Proof
end

section
/-! The register and ALU family (41_alu.md R150 to R164): how a register write sits in a frame, and ADD with an immediate. -/

namespace Sys2Proof

open Sys2Proof.Machine

/-- A write of a register that the frame already exempts keeps the frame. -/
theorem UnchangedExcept.setReg {regs : List Reg} {parts : List Part} {s t : State} (h : UnchangedExcept regs parts s t)
    {x : Reg} (hx : x ∈ regs) (b : Byte) : UnchangedExcept regs parts s (t.setReg x b) := by
  refine { h with reg := fun r hr => ?_ }
  rw [State.setReg_reg_of_ne t b (ne_of_mem_of_not_mem hx hr).symm, h.reg r hr]

namespace Machine

/-- Settles O30: the sum is a byte, so it wraps by itself, and the only register written is the destination. -/
theorem addImmediateWrapsWithoutFlag : Obligations.AddImmediateWrapsWithoutFlag := by
  refine fun x nn s => ⟨(s.setReg x (s.reg x + nn)).advance, rfl, ?_, rfl, ?_⟩
  · rw [State.advance_eq, State.setPc_reg, State.setReg_reg_same, BitVec.toNat_add]
  · exact ((UnchangedExcept.refl [x] [] s).setReg List.mem_cons_self _).setPc _

end Machine

end Sys2Proof
end

section
/-! The index and memory family (42_index_memory.md R180 to R186): how writes of I and of memory sit in a frame, what a byte reads
as after a store, one equation per outcome of LD B, and the obligations settled from them. -/

namespace Sys2Proof

open Sys2Proof.Machine

/-! ### Frames -/

/-- A write of I keeps a frame that exempts I. -/
theorem UnchangedExcept.setI {regs : List Reg} {parts : List Part} {s t : State} (h : UnchangedExcept regs parts s t)
    (hi : Part.index ∈ parts) (a : Address) : UnchangedExcept regs parts s (t.setI a) :=
  { h with index := fun hn => absurd hi hn }

/-- A store keeps a frame that exempts memory. -/
theorem UnchangedExcept.storeBytes {regs : List Reg} {parts : List Part} {s t : State} (h : UnchangedExcept regs parts s t)
    (hm : Part.memory ∈ parts) (a : Nat) (bs : List Byte) : UnchangedExcept regs parts s (t.storeBytes a bs) :=
  { h with memory := fun hn => absurd hm hn }

namespace Machine

/-! ### Bytes after a store -/

/-- The `k`-th byte stored reads back at the `k`-th address. -/
theorem State.storeBytes_byte_add (s : State) (a : Nat) {bs : List Byte} {k : Nat} (hk : k < bs.length) :
    (s.storeBytes a bs).byte (a + k) = bs.getD k 0 := by
  rw [State.storeBytes_eq, State.byte_setMem_writeBytes, if_pos (by omega), Nat.add_sub_cancel_left]

/-- Below and above the addresses stored to, every byte is as before. -/
theorem State.storeBytes_byte_of_outside (s : State) {a b : Nat} {bs : List Byte} (h : b < a ∨ a + bs.length ≤ b) :
    (s.storeBytes a bs).byte b = s.byte b := by
  rw [State.storeBytes_eq, State.byte_setMem_writeBytes, if_neg (by omega)]

/-! ### The digits of a byte: each is below 256, so it is stored exactly -/

theorem decimalDigits_hundreds (b : Byte) : ((decimalDigits b).getD 0 0).toNat = b.toNat / 100 :=
  Nat.mod_eq_of_lt (show b.toNat / 100 < 256 by have := b.isLt; omega)

theorem decimalDigits_tens (b : Byte) : ((decimalDigits b).getD 1 0).toNat = b.toNat / 10 % 10 :=
  Nat.mod_eq_of_lt (show b.toNat / 10 % 10 < 256 by omega)

theorem decimalDigits_ones (b : Byte) : ((decimalDigits b).getD 2 0).toNat = b.toNat % 10 :=
  Nat.mod_eq_of_lt (show b.toNat % 10 < 256 by omega)

/-! ### The outcomes of LD B -/

theorem exec_ldB_of_outside (x : Reg) {s : State} (h : 0xFFF < s.i.toNat + 2) :
    exec (.ldB x) s = .next (s.raise .memoryRange (BitVec.ofNat 16 (max s.i.toNat 0x1000))) :=
  congrArg _ (State.checked_of_outside s (by decide) (by rw [State.effAddr_eq]; omega) _)

theorem exec_ldB_of_inside (x : Reg) {s : State} (h : s.i.toNat + 2 ≤ 0xFFF) :
    exec (.ldB x) s = .next ((s.storeBytes s.i.toNat (decimalDigits (s.reg x))).setPc (s.pc + 2#16)) :=
  congrArg _ (State.checked_of_inside s (.inr (by rw [State.effAddr_eq]; omega)) _)

/-! ### The obligations -/

/-- Settles O40, by the two outcomes of LD B: the digits read back at the addresses stored to. -/
theorem storeDecimalDigits : Obligations.StoreDecimalDigits := by
  refine fun x s => ⟨fun houtside => ?_, fun hinside => ?_⟩
  · exact ⟨_, exec_ldB_of_outside x houtside, s.raise_only _ _⟩
  · have hstored : ∀ k < 3, (s.storeBytes s.i.toNat (decimalDigits (s.reg x))).byte (s.i.toNat + k) =
        (decimalDigits (s.reg x)).getD k 0 := fun k hk => s.storeBytes_byte_add _ hk
    refine ⟨_, exec_ldB_of_inside x hinside, ?hundreds, ?tens, ?ones, fun a ha => ?others, State.setPc_pc _ _, ?frame⟩
    case hundreds => rw [State.setPc_byte, ← decimalDigits_hundreds, ← hstored 0 (by decide), Nat.add_zero]
    case tens => rw [State.setPc_byte, hstored 1 (by decide), decimalDigits_tens]
    case ones => rw [State.setPc_byte, hstored 2 (by decide), decimalDigits_ones]
    case others => exact s.storeBytes_byte_of_outside (by rw [decimalDigits_length]; omega)
    case frame => exact ((UnchangedExcept.refl [] [.memory] s).storeBytes List.mem_cons_self _ _).setPc _

/-- Settles O37: both loads only write I, with an address computed from the operand alone, and advance. -/
theorem indexLoads : Obligations.IndexLoads := by
  have hframe : ∀ (s : State) (a : Address), UnchangedExcept [] [.index] s (s.setI a).advance := fun s a =>
    ((UnchangedExcept.refl [] [.index] s).setI List.mem_cons_self a).setPc _
  refine ⟨fun nnn s => ⟨(s.setI (addrWord nnn)).advance, rfl, ?_, rfl, hframe s _⟩,
    fun x s => ⟨(s.setI (glyphAddr params (s.reg x))).advance, rfl, ?_, rfl, hframe s _⟩⟩
  · exact addrWord_toNat nnn
  · exact glyphAddr_toNat (s.reg x)

end Machine

end Sys2Proof
end

section
/-! The display family (43_display.md R201): how a write of the framebuffer sits in a frame and what its pixels read as, and CLS. -/

namespace Sys2Proof

open Sys2Proof.Machine

/-- A write of the framebuffer keeps a frame that exempts the display. -/
theorem UnchangedExcept.setFb {regs : List Reg} {parts : List Part} {s t : State} (h : UnchangedExcept regs parts s t)
    (hd : Part.display ∈ parts) (f : FrameBuffer) : UnchangedExcept regs parts s (t.setFb f) :=
  { h with display := fun hn => absurd hd hn }

namespace Machine

@[simp] theorem State.setFb_pixel (s : State) (f : FrameBuffer) (r : Row) (c : Col) :
    (s.setFb f).pixel r c = FrameBuffer.get f r c := rfl

/-- Settles O45: CLS writes the blank framebuffer, whose every pixel is background, and advances. -/
theorem clearScreen : Obligations.ClearScreen := by
  refine fun s => ⟨(s.setFb FrameBuffer.blank).advance, rfl, fun r c => ?_, rfl, ?_⟩
  · rw [State.advance_eq, State.setPc_pixel, State.setFb_pixel, FrameBuffer.get_blank]
  · exact ((UnchangedExcept.refl [] [.display] s).setFb List.mem_cons_self _).setPc _

end Machine

end Sys2Proof
end

section
/-! The timer accesses of the keypad and timer family (44_keypad_timers.md R225 to R227): how a write of either timer sits in a
frame, and the obligation settled from it. -/

namespace Sys2Proof

open Sys2Proof.Machine

/-- A write of the delay timer keeps a frame that exempts it. -/
theorem UnchangedExcept.setDt {regs : List Reg} {parts : List Part} {s t : State} (h : UnchangedExcept regs parts s t)
    (hd : Part.delay ∈ parts) (b : TimerVal) : UnchangedExcept regs parts s (t.setDt b) :=
  { h with delay := fun hn => absurd hd hn }

/-- A write of the sound timer keeps a frame that exempts it. -/
theorem UnchangedExcept.setSt {regs : List Reg} {parts : List Part} {s t : State} (h : UnchangedExcept regs parts s t)
    (hs : Part.sound ∈ parts) (b : TimerVal) : UnchangedExcept regs parts s (t.setSt b) :=
  { h with sound := fun hn => absurd hs hn }

namespace Machine

/-- Settles O52: each of the three is one write, of the register or of a timer, and an advance. -/
theorem timerAccess : Obligations.TimerAccess := by
  refine fun x s => ⟨⟨(s.setReg x s.dt).advance, rfl, ?_, rfl, ?_⟩,
    ⟨(s.setDt (s.reg x)).advance, rfl, ?_, rfl, ?_⟩, ⟨(s.setSt (s.reg x)).advance, rfl, ?_, rfl, ?_⟩⟩
  · rw [State.advance_eq, State.setPc_reg, State.setReg_reg_same]
  · exact ((UnchangedExcept.refl [x] [] s).setReg List.mem_cons_self _).setPc _
  · rw [State.advance_eq, State.setPc_dt, State.setDt_dt]
  · exact ((UnchangedExcept.refl [] [.delay] s).setDt List.mem_cons_self _).setPc _
  · rw [State.advance_eq, State.setPc_st, State.setSt_st]
  · exact ((UnchangedExcept.refl [] [.sound] s).setSt List.mem_cons_self _).setPc _

end Machine

end Sys2Proof
end

section
/-! The unsupported words of the exceptions family (60_exceptions.md R241): how the decoder answers a word, by whether it is in a
group of 30_encoding.md R96; which instruction halts with UnsupportedInstruction; and the obligation settled from both. -/

namespace Sys2Proof

open Sys2Proof.Machine

/-! ### The decoder against the groups of R96 -/

/-- What the decoder answers a word `w`, when `unsupported` says whether `w` is in a group of R96: a refusal or SYS if it is, any
other instruction if it is not. -/
inductive DecodeOutcome (w : Word) (unsupported : Bool) (answer : Except DecodeError Instr) : Prop where
  | refused (listed : unsupported = true) (eq : answer = .error (.unsupported w))
  | sys (listed : unsupported = true) (major : fieldN3 w = 0x0) (eq : answer = .ok (.sys (fieldNNN w)))
  | executes (i : Instr) (unlisted : unsupported = false) (notSys : ∀ nnn, i ≠ .sys nnn) (eq : answer = .ok i)

/-- Group 0 refuses nothing: all words but two are SYS. -/
theorem decodeGroup0_outcome {w : Word} (major : fieldN3 w = 0x0) :
    DecodeOutcome w (w != 0x00E0 && w != 0x00EE) (.ok (decodeGroup0 w)) := by
  unfold decodeGroup0
  split
  · next hcls => exact .executes .cls (by simp [hcls]) (by simp) rfl
  · next hcls =>
    split
    · next hret => exact .executes .ret (by simp [hret]) (by simp) rfl
    · next hret => exact .sys (by simp [hcls, hret]) major rfl

/-- Groups 5 and 9 take one minor opcode. -/
theorem decodeMinorZero_outcome (w : Word) {i : Instr} (notSys : ∀ nnn, i ≠ .sys nnn) :
    DecodeOutcome w (fieldN0 w != 0x0) (if fieldN0 w = 0x0#4 then .ok i else .error (.unsupported w)) := by
  split
  · next hzero => exact .executes i (by simp [hzero]) notSys rfl
  · next hother => exact .refused (by simp [hother]) rfl

/-- The minor opcodes that group 8 has no row for, as those it has one for left out. -/
theorem group8_unlisted_eq (n : Nibble) : [0x8#4, 0x9#4, 0xA#4, 0xB#4, 0xC#4, 0xD#4, 0xF#4].contains n =
    !([0x0#4, 0x1#4, 0x2#4, 0x3#4, 0x4#4, 0x5#4, 0x6#4, 0x7#4, 0xE#4].contains n) := by
  revert n
  decide

theorem decodeGroup8_outcome (w : Word) :
    DecodeOutcome w ([0x8#4, 0x9#4, 0xA#4, 0xB#4, 0xC#4, 0xD#4, 0xF#4].contains (fieldN0 w)) (decodeGroup8 w) := by
  rw [group8_unlisted_eq]
  unfold decodeGroup8
  split
  case h_10 => exact .refused (by simp_all) rfl
  all_goals exact .executes _ (by simp [*]) (by simp) rfl

theorem decodeGroupE_outcome (w : Word) :
    DecodeOutcome w (!([0x9E#8, 0xA1#8].contains (fieldNN w))) (decodeGroupE w) := by
  unfold decodeGroupE
  split
  case h_3 => exact .refused (by simp_all) rfl
  all_goals exact .executes _ (by simp [*]) (by simp) rfl

theorem decodeGroupF_outcome (w : Word) :
    DecodeOutcome w
      (!([0x07#8, 0x0A#8, 0x15#8, 0x18#8, 0x1E#8, 0x29#8, 0x33#8, 0x55#8, 0x65#8].contains (fieldNN w)))
      (decodeGroupF w) := by
  unfold decodeGroupF
  split
  case h_10 => exact .refused (by simp_all) rfl
  all_goals exact .executes _ (by simp [*]) (by simp) rfl

theorem nibble_mem_all : ∀ n : Nibble,
    n ∈ [0x0#4, 0x1, 0x2, 0x3, 0x4, 0x5, 0x6, 0x7, 0x8, 0x9, 0xA, 0xB, 0xC, 0xD, 0xE, 0xF] := by decide

/-- The decoder answers every word as the groups of R96 say: major opcodes 0, 5, 8, 9, E and F by the lemma of their group, and the
other ten always execute. -/
theorem decode_outcome (w : Word) : DecodeOutcome w (unsupportedWord w) (decode w) := by
  unfold decode
  split
  case h_1 major => simpa [unsupportedWord, major] using decodeGroup0_outcome major
  case h_6 major => simpa [unsupportedWord, major] using decodeMinorZero_outcome w (by simp)
  case h_9 major => simpa [unsupportedWord, major] using decodeGroup8_outcome w
  case h_10 major => simpa [unsupportedWord, major] using decodeMinorZero_outcome w (by simp)
  case h_15 major => simpa [unsupportedWord, major] using decodeGroupE_outcome w
  case h_16 major => simpa [unsupportedWord, major] using decodeGroupF_outcome w
  case h_17 => exact absurd (nibble_mem_all (fieldN3 w)) (by simp_all)
  all_goals exact .executes _ (by simp [unsupportedWord, *]) (by simp) rfl

/-- A word of major opcode 0 is SYS's own encoding of its low twelve bits. -/
theorem encode_sys_fieldNNN {w : Word} (major : fieldN3 w = 0x0) : encode (.sys (fieldNNN w)) = w := by
  have hfields := packNNN_fields w
  rwa [major] at hfields

namespace Machine

/-! ### The step at a fetched word -/

theorem atStep_fetchWord (s : State) : (atStep s).fetchWord = s.fetchWord := by simp

theorem step_of_run {s : State} (hnext : StepIsNext s) (hrun : s.mode = .run) : step s = runCycle (atStep s) := by
  rw [step_of_stepIsNext hnext, cycle, atStep_mode, hrun]

theorem exec_sys (nnn : Addr) (s : State) :
    exec (.sys nnn) s = .next (s.raise .unsupportedInstruction (encode (.sys nnn))) := rfl

/-- An instruction that halts records UnsupportedInstruction exactly when it is SYS. -/
theorem ExecOutcome.faultCause_iff_sys {i : Instr} {s t : State} (h : ExecOutcome i s t) (hs : s.mode ≠ .halt)
    (ht : t.mode = .halt) : t.faultCause = .unsupportedInstruction ↔ ∃ nnn, i = .sys nnn := by
  cases h with
  | raises cause info _ unsupported _ eq => rw [eq]; exact unsupported
  | waits x _ _ eq => rw [eq] at ht; cases ht
  | completes h => exact absurd (h.mode.symm.trans ht) hs

/-- A fetched word of the groups of R96 only raises UnsupportedInstruction, with the word as info. -/
theorem runCycle_of_unsupportedWord {s : State} (hpc : s.pc.toNat ≤ 0xFFE) (hw : unsupportedWord s.fetchWord = true) :
    runCycle s = .next (s.raise .unsupportedInstruction s.fetchWord) := by
  unfold runCycle
  rw [if_pos ((State.fetchable_iff s).mpr hpc)]
  cases decode_outcome s.fetchWord with
  | refused _ eq => rw [eq]
  | sys _ major eq => simp only [eq, exec_sys, encode_sys_fieldNNN major]
  | executes _ unlisted => cases hw.symm.trans unlisted

/-- Any other fetched word executes an instruction that is not SYS. -/
theorem runCycle_of_supportedWord {s : State} (hpc : s.pc.toNat ≤ 0xFFE) (hw : unsupportedWord s.fetchWord = false) :
    ∃ i, (∀ nnn, i ≠ .sys nnn) ∧ runCycle s = exec i s := by
  unfold runCycle
  rw [if_pos ((State.fetchable_iff s).mpr hpc)]
  cases decode_outcome s.fetchWord with
  | refused listed => cases hw.symm.trans listed
  | sys listed => cases hw.symm.trans listed
  | executes i _ notSys eq => exact ⟨i, notSys, by rw [eq]⟩

/-- Settles O9: the step is the cycle at the fetched word, which for a word of R96 is the fault entry itself, and for any other
word an instruction that is not SYS. -/
theorem unsupportedWordRaises : Obligations.UnsupportedWordRaises := by
  intro s hnext hrun hpc
  have hstep : step s = runCycle (atStep s) := step_of_run hnext hrun
  have hpc' : (atStep s).pc.toNat ≤ 0xFFE := by rwa [atStep_pc]
  rw [← atStep_fetchWord s, hstep]
  refine ⟨fun hw => ⟨_, runCycle_of_unsupportedWord hpc' hw, (atStep s).raise_only _ _⟩, fun hw t ht hhalt hcause => ?_⟩
  obtain ⟨i, notSys, hexec⟩ := runCycle_of_supportedWord hpc' hw
  obtain ⟨t', ht', houtcome⟩ := exec_outcome i (atStep s)
  obtain rfl : t' = t := by simpa [hexec, ht'] using ht
  obtain ⟨nnn, hsys⟩ := (houtcome.faultCause_iff_sys (by simp [hrun]) hhalt).mp hcause
  exact notSys nnn hsys

end Machine

end Sys2Proof
end

section
/-! The reset family (70_reset_and_hazards.md R280 to R282): what the program area and the first fetch read as after a `Reset`, and
the obligation settled from them. -/

namespace Sys2Proof.Machine

/-- Past the font nothing is there before an image is loaded. -/
theorem resetByte_past_font {a : Nat} (ha : 80 ≤ a) : resetByte params a = 0 := by
  have hfont : params.font.length ≤ a - params.fontBase := ha
  rw [resetByte, List.getD_eq_default _ _ hfont, ite_self]

/-- What the program area reads as after `Reset(image)` (R281): the image as far as it fits, and 0 after it. -/
theorem State.resetWith_byte_program (s : State) (image : List Byte) {a : Nat} (ha : 0x200 ≤ a) :
    (s.resetWith image).byte a =
      if a - 0x200 < min image.length 3584 then image.getD (a - 0x200) 0 else 0 := by
  have hread : (s.resetWith image).byte a =
      if 0x200 ≤ a ∧ a < 0x200 + (image.take 3584).length then (image.take 3584).getD (a - 0x200) 0
      else resetByte params a := Memory.read_writeBytes (image.take 3584) [] 0x200 a
  rw [hread, List.length_take]
  by_cases hloaded : a - 0x200 < min image.length 3584
  · rw [if_pos (by omega), if_pos hloaded, List.getD_eq_getElem?_getD, List.getElem?_take_of_lt (by omega),
      List.getD_eq_getElem?_getD]
  · rw [if_neg (by omega), if_neg hloaded, resetByte_past_font (by omega)]

/-- The first word fetched after a `Reset` is the first two bytes of the program area. -/
theorem State.resetWith_fetchWord (s : State) (image : List Byte) :
    (s.resetWith image).fetchWord = image.getD 0 0 ++ image.getD 1 0 := by
  have hfetch : (s.resetWith image).fetchWord = (s.resetWith image).byte 0x200 ++ (s.resetWith image).byte 0x201 := rfl
  rw [hfetch, s.resetWith_byte_program image (by omega), s.resetWith_byte_program image (by omega)]
  match image with
  | [] => rfl
  | [_] => rfl
  | _ :: _ :: _ => simp

/-- Settles O17: the program area is the image, the first word fetched is its first two bytes, and with an empty image that word is
0x0000, one of the unsupported words of R96 (O9). -/
theorem resetLoadsTheImage : Obligations.ResetLoadsTheImage := by
  refine ⟨fun s image a ha _ => s.resetWith_byte_program image ha,
    fun s high low rest => ⟨rfl, s.resetWith_fetchWord (high :: low :: rest)⟩, fun s hscript => ?_⟩
  have hword : (s.resetWith []).fetchWord = 0x0000 := s.resetWith_fetchWord []
  have hpc : (s.resetWith []).pc.toNat ≤ 0xFFE := by rw [State.resetWith_pc]; decide
  have hatStep : atStep (s.resetWith []) = s.resetWith [] := by rw [atStep, State.resetWith_script, hscript]
  obtain ⟨hraises, -⟩ := unsupportedWordRaises (s.resetWith []) (.inl hscript) rfl hpc
  rw [hatStep, hword] at hraises
  exact hraises (by decide)

end Sys2Proof.Machine
end

section
/-! The encoder against the decoder (30_encoding.md R91 to R96): the two are inverse to each other on well-formed instructions and
accepted words, and the decoder takes the first row of the opcode map that a word selects. -/

namespace Sys2Proof

open Sys2Proof.Machine

/-! ### The decoder inverts the encoder -/

/-- Major opcode 0: SYS's word is not the word of CLS or RET, which are tried first (R94), so it is read as SYS. -/
theorem decode_encode_sys {nnn : Addr} (hwf : Instr.WellFormed (.sys nnn)) : decode (encode (.sys nnn)) = .ok (.sys nnn) := by
  simp only [Instr.WellFormed, Instr.wellFormed, Bool.and_eq_true, bne_iff_ne] at hwf
  obtain ⟨hcls, hret⟩ := hwf
  have hclsWord : packNNN 0x0#4 nnn ≠ 0x00E0#16 := fun h => hcls (by rw [← fieldNNN_packNNN 0x0#4 nnn, h]; rfl)
  have hretWord : packNNN 0x0#4 nnn ≠ 0x00EE#16 := fun h => hret (by rw [← fieldNNN_packNNN 0x0#4 nnn, h]; rfl)
  simp [encode, decode, decodeGroup0, hclsWord, hretWord]

/-- Settles O2: every field of a packed word is the field that was packed, so the decoder takes the instruction's own branch and reads
its operands back. Only major opcode 0 needs that the instruction is well-formed. -/
theorem decodeInvertsEncode : Obligations.DecodeInvertsEncode := by
  intro i hwf
  cases i with
  | sys nnn => exact decode_encode_sys hwf
  | cls | ret => rfl
  | ldReg | or | and | xor | addReg | sub | shr | subn | shl => simp [encode, decode, decodeGroup8]
  | skp | sknp => simp [encode, decode, decodeGroupE]
  | ldVxDt | ldVxK | ldDtVx | ldStVx | addI | ldF | ldB | stRegs | ldRegs => simp [encode, decode, decodeGroupF]
  | _ => simp [encode, decode]

/-! ### The encoder inverts the decoder -/

/-- `answer` accepts nothing but a well-formed instruction whose word is `w`. -/
def AcceptsOnlyEncodingOf (w : Word) (answer : Except DecodeError Instr) : Prop :=
  ∀ i, answer = .ok i → i.WellFormed ∧ encode i = w

theorem AcceptsOnlyEncodingOf.error (w : Word) (e : DecodeError) : AcceptsOnlyEncodingOf w (.error e) := by
  intro i h
  cases h

theorem AcceptsOnlyEncodingOf.ok {w : Word} {i : Instr} (hwf : i.WellFormed) (hw : encode i = w) :
    AcceptsOnlyEncodingOf w (.ok i) := by
  rintro j ⟨⟩
  exact ⟨hwf, hw⟩

theorem decodeGroup0_acceptsOnlyEncodingOf {w : Word} (major : fieldN3 w = 0x0) :
    AcceptsOnlyEncodingOf w (.ok (decodeGroup0 w)) := by
  have hw := encode_sys_fieldNNN major
  unfold decodeGroup0
  split
  · next hcls => exact .ok rfl hcls.symm
  · next hcls =>
    split
    · next hret => exact .ok rfl hret.symm
    · next hret =>
      have hwf : Instr.WellFormed (.sys (fieldNNN w)) := by
        simp only [Instr.WellFormed, Instr.wellFormed, Bool.and_eq_true, bne_iff_ne]
        exact ⟨fun h => hcls (by rw [← hw, h]; rfl), fun h => hret (by rw [← hw, h]; rfl)⟩
      exact .ok hwf hw

theorem decodeGroup8_acceptsOnlyEncodingOf {w : Word} (major : fieldN3 w = 0x8) :
    AcceptsOnlyEncodingOf w (decodeGroup8 w) := by
  have hw := packXYN_fields w
  rw [major] at hw
  unfold decodeGroup8
  split
  case h_10 => exact .error _ _
  all_goals next minor => exact .ok rfl (by rw [minor] at hw; exact hw)

theorem decodeGroupE_acceptsOnlyEncodingOf {w : Word} (major : fieldN3 w = 0xE) :
    AcceptsOnlyEncodingOf w (decodeGroupE w) := by
  have hw := packXNN_fields w
  rw [major] at hw
  unfold decodeGroupE
  split
  case h_3 => exact .error _ _
  all_goals next minor => exact .ok rfl (by rw [minor] at hw; exact hw)

theorem decodeGroupF_acceptsOnlyEncodingOf {w : Word} (major : fieldN3 w = 0xF) :
    AcceptsOnlyEncodingOf w (decodeGroupF w) := by
  have hw := packXNN_fields w
  rw [major] at hw
  unfold decodeGroupF
  split
  case h_10 => exact .error _ _
  all_goals next minor => exact .ok rfl (by rw [minor] at hw; exact hw)

/-- Groups 5 and 9 take one minor opcode. -/
theorem decodeMinorZero_acceptsOnlyEncodingOf {w : Word} {i : Instr} (hwf : i.WellFormed)
    (hencode : encode i = packXYN (fieldN3 w) (fieldX w) (fieldY w) 0x0) :
    AcceptsOnlyEncodingOf w (if fieldN0 w = 0x0#4 then .ok i else .error (.unsupported w)) := by
  split
  · next minor => exact .ok hwf (by rw [hencode, show (0x0 : Nibble) = fieldN0 w from minor.symm, packXYN_fields])
  · exact .error _ _

/-- Settles O3: major opcodes 0, 5, 8, 9, E and F by the lemma of their group; in the other ten the word is its fields, in the format of
the instruction. -/
theorem encodeInvertsDecode : Obligations.EncodeInvertsDecode := by
  intro w
  show AcceptsOnlyEncodingOf w (decode w)
  have hNNN := packNNN_fields w
  have hXNN := packXNN_fields w
  have hXYN := packXYN_fields w
  unfold decode
  split
  case h_1 major => exact decodeGroup0_acceptsOnlyEncodingOf major
  case h_6 major | h_10 major => exact decodeMinorZero_acceptsOnlyEncodingOf rfl (by rw [major]; rfl)
  case h_9 major => exact decodeGroup8_acceptsOnlyEncodingOf major
  case h_15 major => exact decodeGroupE_acceptsOnlyEncodingOf major
  case h_16 major => exact decodeGroupF_acceptsOnlyEncodingOf major
  case h_17 => exact .error _ _
  case h_2 major | h_3 major | h_11 major | h_12 major => exact .ok rfl (by rw [major] at hNNN; exact hNNN)
  case h_14 major => exact .ok rfl (by rw [major] at hXYN; exact hXYN)
  all_goals next major => exact .ok rfl (by rw [major] at hXNN; exact hXNN)

/-- Settles O5, by what the decoder answers a word as the groups of R96 say. -/
theorem unsupportedWordsAreTheListedGroups : Obligations.UnsupportedWordsAreTheListedGroups := by
  intro w
  cases decode_outcome w with
  | refused listed eq => simp [listed, eq]
  | sys listed _ eq => simp [listed, eq]
  | executes i unlisted notSys eq => simpa [unlisted, eq] using notSys

/-! ### The opcode map -/

/-- A word shows the pattern of a row that selects it in every field that the row's mask covers. -/
theorem OpcodeRow.extractLsb'_of_selects {row : OpcodeRow} {w : Word} (hsel : row.selects w = true) {start len : Nat}
    (hmask : row.mask.extractLsb' start len = BitVec.allOnes len) :
    w.extractLsb' start len = row.pattern.extractLsb' start len := by
  have hpattern : w &&& row.mask = row.pattern := by simpa [OpcodeRow.selects] using hsel
  rw [← hpattern, BitVec.extractLsb'_and, hmask, BitVec.and_allOnes]

/-- Every row of the map tests the major opcode. -/
theorem OpcodeRow.fieldN3_of_selects {row : OpcodeRow} {w : Word} (hrow : row ∈ opcodeMap) (hsel : row.selects w = true) :
    fieldN3 w = fieldN3 row.pattern := by
  have hmask : ∀ row ∈ opcodeMap, row.mask.extractLsb' 12 4 = BitVec.allOnes 4 := by decide
  exact OpcodeRow.extractLsb'_of_selects hsel (hmask row hrow)

/-- Two rows differ in a bit that both test, so that no word passes both tests. -/
abbrev OpcodeRow.Excludes (p q : OpcodeRow) : Prop := p.pattern &&& q.mask ≠ q.pattern &&& p.mask

theorem opcodeMap_executable_pairwise_excludes : (opcodeMap.take 34).Pairwise OpcodeRow.Excludes := by decide

theorem OpcodeRow.not_excludes_of_selects {p q : OpcodeRow} {w : Word} (hp : p.selects w = true) (hq : q.selects w = true) :
    ¬ p.Excludes q := by
  simp only [OpcodeRow.selects, beq_iff_eq] at hp hq
  rw [not_not, ← hp, ← hq, BitVec.and_assoc, BitVec.and_assoc, BitVec.and_comm p.mask]

/-- Past major opcode 0 the groups of R96 read the minor opcode of groups 5, 8 and 9, the low byte of groups E and F, and no other bit
below the major opcode. -/
theorem unsupportedWord_congr {w w' : Word} (hN3 : fieldN3 w = fieldN3 w') (hmajor : fieldN3 w' ≠ 0x0#4)
    (hN0 : fieldN3 w' ∈ [0x5#4, 0x8#4, 0x9#4] → fieldN0 w = fieldN0 w')
    (hNN : fieldN3 w' ∈ [0xE#4, 0xF#4] → fieldNN w = fieldNN w') : unsupportedWord w = unsupportedWord w' := by
  unfold unsupportedWord
  rw [hN3]
  by_cases hminor : fieldN3 w' ∈ [0x5#4, 0x8#4, 0x9#4]
  · rw [hN0 hminor]
    rcases (by simpa using hminor) with h | h | h <;> simp [h]
  · by_cases hlow : fieldN3 w' ∈ [0xE#4, 0xF#4]
    · rw [hNN hlow]
      rcases (by simpa using hlow) with h | h <;> simp [h]
    · simp only [List.mem_cons, List.not_mem_nil, or_false, not_or] at hminor hlow
      simp [beq_eq_decide, hmajor, hminor, hlow]

/-- The rows past major opcode 0: the pattern is in no group of R96, and the mask covers every bit those groups read. -/
theorem opcodeMap_rows_supported : ∀ row ∈ opcodeMap, fieldN3 row.pattern ≠ 0x0#4 →
    unsupportedWord row.pattern = false ∧
    (fieldN3 row.pattern ∈ [0x5#4, 0x8#4, 0x9#4] → row.mask.extractLsb' 0 4 = BitVec.allOnes 4) ∧
    (fieldN3 row.pattern ∈ [0xE#4, 0xF#4] → row.mask.extractLsb' 0 8 = BitVec.allOnes 8) := by decide

/-- A word that a row selects is not refused. -/
theorem decode_ne_error_of_selects {row : OpcodeRow} {w : Word} (hrow : row ∈ opcodeMap) (hsel : row.selects w = true)
    (e : DecodeError) : decode w ≠ .error e := by
  have hN3 := OpcodeRow.fieldN3_of_selects hrow hsel
  by_cases hzero : fieldN3 row.pattern = 0x0#4
  · have hmajor := hN3.trans hzero
    simp [decode, hmajor]
  · obtain ⟨hpattern, hminor, hlow⟩ := opcodeMap_rows_supported row hrow hzero
    have hw : unsupportedWord w = false := (unsupportedWord_congr hN3 hzero
      (fun h => OpcodeRow.extractLsb'_of_selects hsel (hminor h))
      (fun h => OpcodeRow.extractLsb'_of_selects hsel (hlow h))).trans hpattern
    cases decode_outcome w with
    | refused listed => cases hw.symm.trans listed
    | sys listed => cases hw.symm.trans listed
    | executes i _ _ eq => simp [eq]

/-- At most one of the 34 rows before SYS selects a word. -/
theorem opcodeMap_executable_disjoint {w : Word} {p q : OpcodeRow} (hp : p ∈ opcodeMap.take 34) (hq : q ∈ opcodeMap.take 34)
    (hpw : p.selects w = true) (hqw : q.selects w = true) : p = q := by
  have : Std.Symm OpcodeRow.Excludes := ⟨fun _ _ => Ne.symm⟩
  by_contra hne
  exact OpcodeRow.not_excludes_of_selects hpw hqw (opcodeMap_executable_pairwise_excludes.forall hp hq hne)

/-- Every instruction's word selects the row of its mnemonic. -/
theorem encodesItsRow (i : Instr) : Laws.EncodesItsRow.Statement i := by
  open Laws.EncodesItsRow in
  cases i
  exacts [cls, ret, jp _, call _, seImm _ _, sneImm _ _, seReg _ _, ldImm _ _, addImm _ _, ldReg _ _, or _ _, and _ _, xor _ _,
    addReg _ _, sub _ _, shr _ _, subn _ _, shl _ _, sneReg _ _, ldI _, jpV0 _, rnd _ _, drw _ _ _, skp _, sknp _, ldVxDt _,
    ldVxK _, ldDtVx _, ldStVx _, addI _, ldF _, ldB _, stRegs _, ldRegs _, sys _]

/-- Row 35, which is tried last. -/
def sysRow : OpcodeRow := ⟨"SYS", 0x0000, 0xF000⟩

theorem opcodeMap_eq : opcodeMap = opcodeMap.take 34 ++ [sysRow] := rfl

/-- Of the rows before SYS only those of CLS and RET have major opcode 0, and they test every bit. -/
theorem opcodeMap_executable_major_zero : ∀ row ∈ opcodeMap.take 34, fieldN3 row.pattern = 0x0 →
    row.mask = BitVec.allOnes 16 ∧ (row.pattern = encode .cls ∨ row.pattern = encode .ret) := by decide

/-- No row before SYS selects the word of a well-formed SYS. -/
theorem not_selects_encode_sys {nnn : Addr} (hwf : Instr.WellFormed (.sys nnn)) {row : OpcodeRow}
    (hrow : row ∈ opcodeMap.take 34) : ¬ row.selects (encode (.sys nnn)) = true := by
  intro hsel
  have hmajor := OpcodeRow.fieldN3_of_selects (List.mem_of_mem_take hrow) hsel
  obtain ⟨hmask, hpattern⟩ := opcodeMap_executable_major_zero row hrow (by rw [← hmajor]; exact fieldN3_packNNN _ _)
  have hword : encode (.sys nnn) = row.pattern := by
    simpa only [OpcodeRow.selects, hmask, BitVec.and_allOnes, beq_iff_eq] using hsel
  have hdecode := decode_encode_sys hwf
  rcases hpattern with h | h <;> rw [hword, h] at hdecode <;> cases hdecode

/-- The word of a well-formed SYS comes to the last row. -/
theorem opcodeMap_find?_encode_sys {nnn : Addr} (hwf : Instr.WellFormed (.sys nnn)) :
    opcodeMap.find? (fun row => row.selects (encode (.sys nnn))) = some sysRow := by
  have hsel : sysRow.selects (encode (.sys nnn)) = true := by
    simp only [OpcodeRow.selects, sysRow, encode, Laws.EncodesItsRow.mask_packNNN]
    decide
  rw [opcodeMap_eq, List.find?_append, List.find?_eq_none.mpr fun row => not_selects_encode_sys hwf, Option.none_or,
    List.find?_singleton, if_pos hsel]

/-- A row before SYS that selects a word is the first to select it. -/
theorem opcodeMap_find?_of_selects {row : OpcodeRow} {w : Word} (hrow : row ∈ opcodeMap.take 34) (hsel : row.selects w = true) :
    opcodeMap.find? (fun row => row.selects w) = some row := by
  obtain ⟨first, hfirst⟩ := Option.isSome_iff_exists.mp
    (List.find?_isSome (p := fun row => row.selects w).mpr ⟨row, hrow, hsel⟩)
  have hfirstSel : first.selects w = true := List.find?_some (p := (OpcodeRow.selects · w)) hfirst
  have heq : first = row := opcodeMap_executable_disjoint (List.mem_of_find?_eq_some hfirst) hrow hfirstSel hsel
  rw [opcodeMap_eq, List.find?_append, hfirst, heq, Option.some_or]

/-- The first row that selects the word of a well-formed instruction is that of its mnemonic. -/
theorem opcodeMap_find?_encode {i : Instr} (hwf : i.WellFormed) :
    (opcodeMap.find? (fun row => row.selects (encode i))).map OpcodeRow.mnemonic = some i.mnemonic := by
  obtain ⟨row, hrow, hmnemonic, hsel⟩ := encodesItsRow i
  rw [opcodeMap_eq, List.mem_append, List.mem_singleton] at hrow
  rcases hrow with hrow | rfl
  · rw [opcodeMap_find?_of_selects hrow hsel, Option.map_some, hmnemonic]
  · cases i with
    | sys nnn => rw [opcodeMap_find?_encode_sys hwf]; rfl
    | _ => exact absurd hmnemonic (by simp [sysRow, Instr.mnemonic])

/-- Settles O4: an accepted word is the word of its instruction (O3), whose row is the first; a refused word is selected by no row; and
two rows before SYS exclude each other. -/
theorem decoderTakesFirstMatchingRow : Obligations.DecoderTakesFirstMatchingRow := by
  refine ⟨fun w i hi => ?_, fun w e he => ⟨?_, ?_⟩, fun w p q => opcodeMap_executable_disjoint⟩
  · obtain ⟨hwf, rfl⟩ := encodeInvertsDecode w i hi
    exact opcodeMap_find?_encode hwf
  · exact List.find?_eq_none.mpr fun row hrow hsel => decode_ne_error_of_selects hrow hsel e he
  · cases decode_outcome w with
    | refused _ eq => rw [eq] at he; cases he; rfl
    | sys _ _ eq => rw [eq] at he; cases he
    | executes _ _ _ eq => rw [eq] at he; cases he

/-- Settles O1: nine words, each evaluated. -/
theorem writtenWordsDecode : Obligations.WrittenWordsDecode := by
  unfold Obligations.WrittenWordsDecode
  decide

end Sys2Proof
end

section
/-! What one step can do (40_cycle_control.md R120 to R133, 60_exceptions.md R246 to R252): the outcomes of a cycle, said once, and of
a step by the host's next event; the obligations about steps settled from them. -/

namespace Sys2Proof

open Sys2Proof.Machine

/-! ### Frames: wider ones, and the writes of the wait -/

theorem UnchangedExcept.mono {regs regs' : List Reg} {parts parts' : List Part} {s t : State}
    (h : UnchangedExcept regs parts s t) (hregs : regs ⊆ regs') (hparts : parts ⊆ parts') :
    UnchangedExcept regs' parts' s t where
  reg r hr := h.reg r fun hm => hr (hregs hm)
  index hn := h.index fun hm => hn (hparts hm)
  stack hn := h.stack fun hm => hn (hparts hm)
  delay hn := h.delay fun hm => hn (hparts hm)
  sound hn := h.sound fun hm => hn (hparts hm)
  memory hn := h.memory fun hm => hn (hparts hm)
  display hn := h.display fun hm => hn (hparts hm)
  mode hn := h.mode fun hm => hn (hparts hm)
  waitReg hn := h.waitReg fun hm => hn (hparts hm)
  faultRecord hn := h.faultRecord fun hm => hn (hparts hm)
  draws hn := h.draws fun hm => hn (hparts hm)
  keys := h.keys
  script := h.script

/-- A write of `MODE` keeps a frame that exempts it. -/
theorem UnchangedExcept.setMode {regs : List Reg} {parts : List Part} {s t : State} (h : UnchangedExcept regs parts s t)
    (hm : Part.mode ∈ parts) (m : Mode) : UnchangedExcept regs parts s (t.setMode m) :=
  { h with mode := fun hn => absurd hm hn }

/-- A write of `WAIT_REG` keeps a frame that exempts it. -/
theorem UnchangedExcept.setWaitReg {regs : List Reg} {parts : List Part} {s t : State} (h : UnchangedExcept regs parts s t)
    (hw : Part.waitReg ∈ parts) (x : Reg) : UnchangedExcept regs parts s (t.setWaitReg x) :=
  { h with waitReg := fun hn => absurd hw hn }

namespace Machine

/-! ### The cycle, by MODE -/

theorem cycle_of_halt {s : State} (h : s.mode = .halt) : cycle s = .next s := by rw [cycle, h]

theorem cycle_of_run {s : State} (h : s.mode = .run) : cycle s = runCycle s := by rw [cycle, h]

theorem cycle_of_wait_noKey {s : State} (h : s.mode = .waitKey) (hkeys : s.keys = 0) : cycle s = .next s := by
  rw [cycle, h]
  exact if_pos hkeys

theorem cycle_of_wait_key {s : State} (h : s.mode = .waitKey) (hkeys : s.keys ≠ 0) :
    cycle s = .next ((s.takeKey params s.waitReg).setMode .run) := by
  rw [cycle, h]
  exact if_neg hkeys

theorem runCycle_of_outside {s : State} (hpc : 0xFFE < s.pc.toNat) :
    runCycle s = .next (s.raise .memoryRange (BitVec.ofNat 16 (max s.pc.toNat 0x1000))) :=
  if_neg fun h => absurd ((State.fetchable_iff s).mp h) (by omega)

theorem runCycle_of_decode {s : State} {i : Instr} (hpc : s.pc.toNat ≤ 0xFFE) (hi : decode s.fetchWord = .ok i) :
    runCycle s = exec i s := by
  rw [runCycle, if_pos ((State.fetchable_iff s).mpr hpc), hi]

/-- The ways a cycle can end. -/
inductive CycleOutcome (s t : State) : Prop where
  | idles (stopped : s.mode = .halt ∨ s.mode = .waitKey ∧ s.keys = 0) (eq : t = s)
  | endsWait (waiting : s.mode = .waitKey) (key : s.keys ≠ 0) (eq : t = (s.takeKey params s.waitReg).setMode .run)
  | raises (running : s.mode = .run) (cause : FaultCause) (info : Word) (recorded : cause ≠ .none)
      (eq : t = s.raise cause info)
  | waits (running : s.mode = .run) (inRange : s.pc.toNat ≤ 0xFFE) (x : Reg) (decoded : decode s.fetchWord = .ok (.ldVxK x))
      (eq : t = (s.setMode .waitKey).setWaitReg x)
  | completes (running : s.mode = .run) (inRange : s.pc.toNat ≤ 0xFFE) (i : Instr) (executed : exec i s = .next t)
      (h : Completes i s t)

/-- A cycle in `RUN` raises, or ends as its instruction does. -/
theorem runCycle_outcome {s : State} (running : s.mode = .run) : ∃ t, runCycle s = .next t ∧ CycleOutcome s t := by
  rcases runCycle_cases s with ⟨_, hrun⟩ | ⟨_, _, hrun⟩ | ⟨inRange, i, decoded, hrun⟩
  · exact ⟨_, hrun, .raises running .memoryRange _ (by simp) rfl⟩
  · exact ⟨_, hrun, .raises running .unsupportedInstruction _ (by simp) rfl⟩
  · obtain ⟨t, executed, houtcome⟩ := exec_outcome i s
    refine ⟨t, hrun.trans executed, ?_⟩
    cases houtcome with
    | raises cause info recorded _ _ eq => exact .raises running cause info recorded eq
    | waits x instr _ eq => exact .waits running inRange x (instr ▸ decoded) eq
    | completes h => exact .completes running inRange i executed h

/-- EVERY CYCLE, FROM EVERY STATE: it answers a next state, in one of five ways. -/
theorem cycle_outcome (s : State) : ∃ t, cycle s = .next t ∧ CycleOutcome s t := by
  cases hmode : s.mode with
  | halt => exact ⟨s, cycle_of_halt hmode, .idles (.inl hmode) rfl⟩
  | run =>
    rw [cycle_of_run hmode]
    exact runCycle_outcome hmode
  | waitKey =>
    by_cases hkeys : s.keys = 0
    · exact ⟨s, cycle_of_wait_noKey hmode hkeys, .idles (.inr ⟨hmode, hkeys⟩) rfl⟩
    · exact ⟨_, cycle_of_wait_key hmode hkeys, .endsWait hmode hkeys rfl⟩

/-- The ways a step can end, by the host's next event. -/
inductive StepOutcome (s t : State) : Prop where
  | cycles (next : StepIsNext s) (h : CycleOutcome (atStep s) t)
  | ticks (rest : List HostEvent) (event : s.script = .tick :: rest) (eq : t = (s.setScript rest).tick)
  | resets (image : List Byte) (rest : List HostEvent) (event : s.script = .reset image :: rest)
      (eq : t = (s.setScript rest).resetWith image)

theorem step_outcome (s : State) : ∃ t, step s = .next t ∧ StepOutcome s t := by
  rcases step_cases s with ⟨next, hstep⟩ | ⟨rest, event, hstep⟩ | ⟨image, rest, event, hstep⟩
  · obtain ⟨t, ht, houtcome⟩ := cycle_outcome (atStep s)
    exact ⟨t, hstep.trans ht, .cycles next houtcome⟩
  · exact ⟨_, hstep, .ticks rest event rfl⟩
  · exact ⟨_, hstep, .resets image rest event rfl⟩

theorem StepOutcome.of_step {s t : State} (h : step s = .next t) : StepOutcome s t := by
  obtain ⟨u, hu, houtcome⟩ := step_outcome s
  obtain rfl : u = t := by simpa [hu] using h
  exact houtcome

@[simp] theorem State.tick_mode (s : State) : s.tick.mode = s.mode := by
  by_cases h : s.mode = .halt
  · rw [s.tick_of_halt h]
  · rw [s.tick_of_not_halt h]
    rfl

/-- A state whose next transition fetches is ready as it is. -/
theorem State.readyToFetch_of_ready {s : State} (running : s.mode = .run) (hpc : s.pc.toNat ≤ 0xFFE) (hscript : s.script = []) :
    s.readyToFetch = s := by
  have hfetch : s.fetchable params = true := (State.fetchable_iff s).mpr hpc
  obtain ⟨⟩ := s
  subst running hscript
  simp [State.readyToFetch, hfetch]

/-- A word placed at PC is the word fetched there. -/
theorem State.placeWord_fetchWord (s : State) (w : Word) : (s.placeWord w).fetchWord = w := by
  have hhigh := s.storeBytes_byte_add s.pc.toNat (bs := [highByte w, lowByte w]) (k := 0) (by simp)
  have hlow := s.storeBytes_byte_add s.pc.toNat (bs := [highByte w, lowByte w]) (k := 1) (by simp)
  calc (s.placeWord w).fetchWord
      = wordOf ((s.placeWord w).byte s.pc.toNat) ((s.placeWord w).byte (s.pc.toNat + 1)) := rfl
    _ = wordOf (highByte w) (lowByte w) := congrArg₂ wordOf hhigh hlow
    _ = w := wordOf_bytes w

/-! ### A step by MODE, when its event is a `Step` -/

theorem step_of_halt {s : State} (next : StepIsNext s) (h : s.mode = .halt) : step s = .next (atStep s) := by
  rw [step_of_stepIsNext next, cycle_of_halt (by rw [atStep_mode, h])]

theorem step_of_decode {s : State} {i : Instr} (next : StepIsNext s) (running : s.mode = .run) (hpc : s.pc.toNat ≤ 0xFFE)
    (hi : decode s.fetchWord = .ok i) : step s = exec i (atStep s) := by
  rw [step_of_run next running, runCycle_of_decode (by rwa [atStep_pc]) (by rwa [atStep_fetchWord])]

theorem step_of_wait_noKey {s : State} (next : StepIsNext s) (h : s.mode = .waitKey) (hkeys : (atStep s).keys = 0) :
    step s = .next (atStep s) := by
  rw [step_of_stepIsNext next, cycle_of_wait_noKey (by rw [atStep_mode, h]) hkeys]

theorem step_of_wait_key {s : State} (next : StepIsNext s) (h : s.mode = .waitKey) (hkeys : (atStep s).keys ≠ 0) :
    step s = .next (((atStep s).takeKey params s.waitReg).setMode .run) := by
  rw [step_of_stepIsNext next, cycle_of_wait_key (by rw [atStep_mode, h]) hkeys, atStep_waitReg]

/-! ### The obligations about steps -/

/-- Settles O13: every step has an outcome, and each is a next state. -/
theorem everyStepAnswersNext : Obligations.EveryStepAnswersNext := fun s =>
  let ⟨t, ht, _⟩ := step_outcome s
  ⟨t, ht⟩

/-- Settles O7: a step in `RUN` is the executor of the instruction decoded from the fetched word. -/
theorem stepRunsDecodedInstruction : Obligations.StepRunsDecodedInstruction := fun _ _ next running hpc hi =>
  step_of_decode next running hpc hi

/-- Settles O8: above 0xFFE the cycle is the fault entry; below, the word is the two bytes by definition. -/
theorem fetchReadsTwoBytesOrRaises : Obligations.FetchReadsTwoBytesOrRaises := by
  refine fun s next running => ⟨fun hpc => ?_, fun _ => rfl⟩
  rw [← atStep_pc s] at hpc ⊢
  exact ⟨_, (step_of_run next running).trans (runCycle_of_outside hpc), (atStep s).raise_only _ _⟩

/-- Settles O10: in `HALT` a cycle and a tick keep the state. -/
theorem haltIgnoresStepAndTick : Obligations.HaltIgnoresStepAndTick := by
  refine fun s hhalt => ⟨fun next => step_of_halt next hhalt, fun rest event => ?_⟩
  have htick : (s.setScript rest).tick = s.setScript rest := State.tick_of_halt _ hhalt
  simp [step, hostStep, event, htick]

/-- Settles O11: in `HALT` a `Step` and a `Tick` keep `MODE`, so a step that leaves `HALT` is a `Reset`. -/
theorem onlyResetLeavesHalt : Obligations.OnlyResetLeavesHalt := by
  intro s t hhalt hstep hleft
  cases StepOutcome.of_step hstep with
  | cycles next _ =>
    obtain rfl : atStep s = t := by simpa [step_of_halt next hhalt] using hstep
    exact absurd hhalt (by simpa using hleft)
  | ticks rest _ eq => exact absurd hhalt (by simpa [eq] using hleft)
  | resets image rest event _ => exact ⟨image, rest, event⟩

/-- Settles O12: of the outcomes of a step only a raising cycle enters `HALT`, and that is the fault entry itself. -/
theorem faultsArePrecise : Obligations.FaultsArePrecise := by
  intro s t hgood hstep hhalt
  cases StepOutcome.of_step hstep with
  | ticks rest _ eq => exact absurd (by simpa [eq] using hhalt) hgood
  | resets image rest _ eq => exact absurd hhalt (by simp [eq, State.reset])
  | cycles next h =>
    cases h with
    | raises _ cause info recorded eq => exact ⟨next, cause, info, recorded, eq ▸ (atStep s).raise_only cause info⟩
    | idles _ eq => exact absurd (by simpa [eq] using hhalt) hgood
    | endsWait _ _ eq => simp [eq] at hhalt
    | waits _ _ _ _ eq => simp [eq] at hhalt
    | completes _ _ _ _ h => exact absurd (by rw [← atStep_mode s, ← h.mode, hhalt]) hgood

/-- Settles O14: the poll of a pending wait, with no key down. -/
theorem waitWithoutKeyChangesNothing : Obligations.WaitWithoutKeyChangesNothing := fun _ next hwait hkeys =>
  step_of_wait_noKey next hwait hkeys

/-- Settles O15: the poll takes the picked key, which is the lowest one down. -/
theorem waitEndsWithLowestKey : Obligations.WaitEndsWithLowestKey := by
  intro s next hwait hkeys
  obtain ⟨k, hdown, hlowest, hpick⟩ := (atStep s).pickKey_lowest hkeys
  refine ⟨_, k, step_of_wait_key next hwait hkeys, hdown, hlowest, ?_, rfl, ?_, ?_⟩
  · rw [State.setMode_reg, State.takeKey_eq, State.setPc_reg, State.setReg_reg_same, hpick]
  · rw [State.setMode_pc, State.takeKey_eq, State.setPc_pc, atStep_pc]
  · rw [State.takeKey_eq]
    exact (((UnchangedExcept.refl _ _ _).setReg List.mem_cons_self _).setPc _).setMode List.mem_cons_self _

/-- Settles O16: the idle loop's instruction writes PC with the value it has. -/
theorem idleLoopStays : Obligations.IdleLoopStays := by
  rintro s ⟨running, hfetch, nnn, hdecode, htarget⟩ next
  have hstays : (atStep s).setPc (addrWord nnn) = atStep s := by rw [htarget, ← atStep_pc s]; rfl
  exact (step_of_decode next running ((State.fetchable_iff s).mp hfetch) hdecode).trans (congrArg _ hstays)

/-- Settles O6: the placed word is the fetched word, and it decodes to the instruction it encodes (O2). -/
theorem placedInstructionRunsNext : Obligations.PlacedInstructionRunsNext := by
  intro i s hwf running hpc hscript
  rw [State.withFetchWord, State.readyToFetch_of_ready running hpc hscript, tableWord_toNat]
  have hscript' : (s.placeWord (encode i)).script = [] := hscript
  have hstate : atStep (s.placeWord (encode i)) = s.placeWord (encode i) := by rw [atStep, hscript']
  have hdecode : decode (s.placeWord (encode i)).fetchWord = .ok i := by
    rw [State.placeWord_fetchWord, decodeInvertsEncode i hwf]
  rw [step_of_decode (.inl hscript') running hpc hdecode, hstate]

end Machine

end Sys2Proof
end

section
/-! Reset and Tick (70_reset_and_hazards.md R280 to R282, 60_exceptions.md R251), and the invariants of 10_state.md R37 and of the
memory list: both hold after a reset and are kept by every outcome of a step. -/

namespace Sys2Proof

open Sys2Proof.Machine

namespace Machine

/-! ### What reads as what after a `Reset` -/

/-- Below the program area a `Reset` leaves the reset contents. -/
theorem State.resetWith_byte_below (s : State) (image : List Byte) {a : Nat} (ha : a < 0x200) :
    (s.resetWith image).byte a = resetByte params a :=
  (Memory.read_writeBytes (image.take 3584) [] 0x200 a).trans (if_neg (by omega))

theorem resetByte_font (a : Nat) : resetByte params a = fontTable.getD a 0 := if_pos (Nat.zero_le a)

@[simp] theorem State.resetWith_reg (s : State) (image : List Byte) (r : Reg) : (s.resetWith image).reg r = 0 :=
  Vector.getElem_replicate _

@[simp] theorem State.resetWith_slot (s : State) (image : List Byte) (j : Nat) : (s.resetWith image).slot j = 0 := by
  unfold State.slot
  split
  · exact Vector.getElem_replicate _
  · rfl

@[simp] theorem State.resetWith_pixel (s : State) (image : List Byte) (r : Row) (c : Col) :
    (s.resetWith image).pixel r c = false := FrameBuffer.get_blank r c

theorem step_of_reset {s : State} {image : List Byte} {rest : List HostEvent} (event : s.script = .reset image :: rest) :
    step s = .next ((s.setScript rest).resetWith image) := by
  simp [step, hostStep, event]

theorem step_of_tick {s : State} {rest : List HostEvent} (event : s.script = .tick :: rest) :
    step s = .next (s.setScript rest).tick := by
  simp [step, hostStep, event]

/-- Settles O18: nothing is loaded below the program area, and past its 80 bytes the font's table reads as 0. -/
theorem resetLoadsTheFont : Obligations.ResetLoadsTheFont := by
  intro s image a ha
  rw [s.resetWith_byte_below image ha]
  split
  · exact resetByte_font a
  · exact resetByte_past_font (by omega)

/-- Settles O19: the step is State.resetWith, and each value is read off it. -/
theorem resetSetsTheSourcesValues : Obligations.ResetSetsTheSourcesValues := by
  refine ⟨fun s image rest event => ?_, rfl⟩
  exact ⟨_, step_of_reset event, rfl, rfl, rfl, rfl, rfl, State.resetWith_pixel _ image, rfl, rfl, fun _ => rfl⟩

/-- Settles O20, for State.resetWith first, which the step is. -/
theorem resetClearsTheRegisters : Obligations.ResetClearsTheRegisters := by
  refine ⟨fun s image => ?_, fun s image rest event => ⟨_, step_of_reset event, ?_⟩⟩
  all_goals exact ⟨State.resetWith_reg _ image, rfl, State.resetWith_slot _ image, rfl, rfl⟩

/-! ### Tick -/

theorem countDown_of_eq_zero {b : TimerVal} (h : b = 0) : countDown b = 0 := by
  rw [h]
  rfl

theorem countDown_of_ne_zero {b : TimerVal} (h : b ≠ 0) : countDown b = b - 1 := if_neg h

theorem countDown_toNat (b : TimerVal) : (countDown b).toNat = b.toNat - 1 := by
  by_cases h : b = 0
  · rw [countDown_of_eq_zero h, h]
    rfl
  · have hpos : b.toNat ≠ 0 := fun hz => h (BitVec.eq_of_toNat_eq hz)
    have hlt := b.isLt
    rw [countDown_of_ne_zero h, BitVec.toNat_sub, show (1 : TimerVal).toNat = 1 from rfl]
    omega

/-- A tick writes the timers and nothing else. -/
theorem State.unchangedExcept_tick (s : State) : UnchangedExcept [] [.delay, .sound] s s.tick := by
  have hrefl := UnchangedExcept.refl [] [.delay, .sound] s
  by_cases h : s.mode = .halt
  · rwa [s.tick_of_halt h]
  · rw [s.tick_of_not_halt h]
    exact (hrefl.setDt (by simp) _).setSt (by simp) _

@[simp] theorem State.tick_pc (s : State) : s.tick.pc = s.pc := by
  by_cases h : s.mode = .halt
  · rw [s.tick_of_halt h]
  · rw [s.tick_of_not_halt h]
    rfl

/-- Settles O21: in `HALT` a tick is no change, and outside it the two timers are counted down. -/
theorem tickCountsTheTimersDown : Obligations.TickCountsTheTimersDown := by
  intro s rest event
  refine ⟨_, step_of_tick event, State.tick_pc _, State.unchangedExcept_tick _, fun hhalt => ?_, fun hgood => ?_⟩
  · rw [State.tick_of_halt (s.setScript rest) hhalt]
    exact ⟨rfl, rfl⟩
  · rw [State.tick_of_not_halt (s.setScript rest) hgood]
    exact ⟨countDown_of_ne_zero, countDown_of_eq_zero, countDown_of_ne_zero, countDown_of_eq_zero⟩

/-- Settles O22, by induction on the number of ticks: one tick takes each timer down by one, and keeps `MODE`. -/
theorem ticksReachZeroAndStay : Obligations.TicksReachZeroAndStay := by
  intro n
  induction n with
  | zero => exact fun s _ => ⟨rfl, rfl⟩
  | succ n ih =>
    intro s hgood
    obtain ⟨hdt, hst⟩ := ih s.tick (by rwa [State.tick_mode])
    rw [s.tick_of_not_halt hgood] at hdt hst
    simp only [State.setSt_dt, State.setDt_dt, State.setSt_st, countDown_toNat] at hdt hst
    rw [Function.iterate_succ_apply, s.tick_of_not_halt hgood, hdt, hst]
    omega

end Machine

/-! ### The invariant of 10_state.md R37 -/

theorem Invariant.setScript {s : State} (h : Invariant s) (l : List HostEvent) : Invariant (s.setScript l) :=
  ⟨h.slots, h.waits, h.halted, h.range⟩

theorem Invariant.setKeys {s : State} (h : Invariant s) (k : Keys) : Invariant (s.setKeys k) :=
  ⟨h.slots, h.waits, h.halted, h.range⟩

theorem Invariant.atStep {s : State} (h : Invariant s) : Invariant (atStep s) := by
  unfold Sys2Proof.atStep
  split
  · exact (h.setScript _).setKeys _
  · exact h

theorem Invariant.tick {s : State} (h : Invariant s) : Invariant s.tick := by
  by_cases hhalt : s.mode = .halt
  · rwa [s.tick_of_halt hhalt]
  · rw [s.tick_of_not_halt hhalt]
    exact ⟨h.slots, h.waits, h.halted, h.range⟩

theorem Invariant.resetWith (s : State) (image : List Byte) : Invariant (s.resetWith image) where
  slots j hj := absurd hj (Nat.not_lt_zero j)
  waits h := by cases h
  halted := by simp [State.reset]
  range := by rw [State.resetWith_pc]; decide

/-- A fault entry keeps the invariant: it records the fault with `HALT`. -/
theorem Invariant.raise {s : State} (h : Invariant s) {cause : FaultCause} (hcause : cause ≠ .none) (info : Word) :
    Invariant (s.raise cause info) where
  slots := h.slots
  waits hwait := by cases hwait
  halted := by simp [hcause]
  range := h.range

/-- No fault is recorded outside `HALT`. -/
theorem Invariant.faultCause_eq_none {s : State} (h : Invariant s) (hgood : s.mode ≠ .halt) : s.faultCause = .none :=
  not_not.mp fun hc => hgood (h.halted.mpr hc)

/-- Entering the wait keeps the invariant: it stands at its own `Fx0A`. -/
theorem Invariant.startWait {s : State} (h : Invariant s) (running : s.mode = .run) (inRange : s.pc.toNat ≤ 0xFFE) {x : Reg}
    (decoded : decode s.fetchWord = .ok (.ldVxK x)) : Invariant ((s.setMode .waitKey).setWaitReg x) where
  slots := h.slots
  waits _ := ⟨inRange, decoded⟩
  halted := by simp [h.faultCause_eq_none (by simp [running])]
  range := h.range

/-- PC advanced from where it can fetch. -/
theorem Machine.State.advance_toNat {s : State} (h : s.pc.toNat ≤ 0xFFE) : (s.pc + 2#16).toNat = s.pc.toNat + 2 := by
  simp only [BitVec.toNat_add, BitVec.toNat_ofNat]
  omega

theorem Machine.State.skip_toNat {s : State} (h : s.pc.toNat ≤ 0xFFE) : (s.pc + 4#16).toNat = s.pc.toNat + 4 := by
  simp only [BitVec.toNat_add, BitVec.toNat_ofNat]
  omega

/-- Ending the wait keeps the invariant: the wait stands where PC can advance. -/
theorem Invariant.endWait {s : State} (h : Invariant s) (waiting : s.mode = .waitKey) :
    Invariant ((s.takeKey params s.waitReg).setMode .run) where
  slots := h.slots
  waits hwait := by cases hwait
  halted := by simp [h.faultCause_eq_none (by simp [waiting])]
  range := by
    obtain ⟨inRange, _⟩ := h.waits waiting
    rw [State.takeKey_eq, State.setMode_pc, State.setPc_pc, State.advance_toNat inRange]
    omega

/-- What completes has not raised. -/
theorem Machine.Completes.ne_raise {i : Instr} {s t : State} (h : Completes i s t) (running : s.mode = .run) {cause : FaultCause}
    {info : Word} : t ≠ s.raise cause info := by
  rintro rfl
  cases running.symm.trans h.mode.symm

/-- A RET that completes found an occupied slot. -/
theorem Machine.Completes.occupied_of_ret {s t : State} (h : Completes .ret s t) (running : s.mode = .run)
    (executed : exec .ret s = .next t) : 0 < s.sp.val := by
  by_contra hempty
  rw [exec_ret_of_empty (by omega), Host.Outcome.next.injEq] at executed
  exact h.ne_raise running executed.symm

/-- A CALL that completes found room. -/
theorem Machine.Completes.room_of_call {nnn : Addr} {s t : State} (h : Completes (.call nnn) s t) (running : s.mode = .run)
    (executed : exec (.call nnn) s = .next t) : s.sp.val < 16 := by
  by_contra hfull
  rw [exec_call_of_full nnn (by omega), Host.Outcome.next.injEq] at executed
  exact h.ne_raise running executed.symm

section

variable {s t : State} {i : Instr} (hinv : Invariant s) (running : s.mode = .run) (inRange : s.pc.toNat ≤ 0xFFE)
  (executed : exec i s = .next t) (h : Completes i s t)

include hinv running inRange executed h

/-- An occupied slot after an instruction was occupied before, or holds the address after a CALL that could be fetched. -/
theorem Invariant.slots_of_completes (j : Nat) (hj : j < t.sp.val) :
    0x0002 ≤ (t.slot j).toNat ∧ (t.slot j).toNat ≤ 0x1000 := by
  cases i with
  | ret =>
    rw [exec_ret_of_occupied (h.occupied_of_ret running executed)] at executed
    cases executed
    exact hinv.slots j (lt_of_lt_of_le hj (Nat.sub_le _ _))
  | call nnn =>
    have hroom := h.room_of_call running executed
    rw [exec_call_of_room nnn hroom] at executed
    cases executed
    rw [State.setPc_sp, State.push_sp] at hj
    rw [State.setPc_slot, State.push_slot]
    split
    · rw [State.advance_toNat inRange]
      omega
    · exact hinv.slots j (by omega)
  | _ =>
    obtain ⟨hsp, hslot⟩ := h.frame.stack (by simp [writtenParts])
    rw [hslot]
    exact hinv.slots j (by rwa [← hsp])

/-- The table of PC effects stays within 0x10FE: two or four past what could be fetched, a popped slot, a 12-bit address, or that and a
byte. -/
theorem Invariant.pc_of_completes : t.pc.toNat ≤ 0x10FE := by
  have hpc := h.pc
  have hadvance := State.advance_toNat inRange
  have hskip := State.skip_toNat inRange
  cases i with
  | ret =>
    have hoccupied := h.occupied_of_ret running executed
    obtain ⟨_, hslot⟩ := hinv.slots (s.sp.val - 1) (by omega)
    rw [List.mem_singleton.mp hpc]
    omega
  | jp nnn | call nnn =>
    rw [List.mem_singleton.mp hpc, addrWord_toNat]
    omega
  | jpV0 nnn =>
    have htarget := s.v0Target_toNat nnn
    rw [List.mem_singleton.mp hpc]
    rw [State.v0Target] at htarget
    omega
  | seImm | sneImm | seReg | sneReg | skp | sknp =>
    rcases List.mem_pair.mp hpc with hpc | hpc <;> rw [hpc] <;> omega
  | _ =>
    rw [List.mem_singleton.mp hpc]
    omega

/-- An instruction that completes keeps the invariant. -/
theorem Invariant.completes : Invariant t where
  slots := hinv.slots_of_completes running inRange executed h
  waits hwait := by cases running.symm.trans (h.mode.symm.trans hwait)
  halted := by rw [h.mode, h.cause, hinv.halted]
  range := hinv.pc_of_completes running inRange executed h

end

theorem Invariant.cycle {s t : State} (h : Invariant s) (houtcome : CycleOutcome s t) : Invariant t := by
  cases houtcome with
  | idles _ eq => exact eq ▸ h
  | endsWait waiting _ eq => exact eq ▸ h.endWait waiting
  | raises _ _ info recorded eq => exact eq ▸ h.raise recorded info
  | waits running inRange _ decoded eq => exact eq ▸ h.startWait running inRange decoded
  | completes running inRange _ executed hc => exact h.completes running inRange executed hc

/-- Settles O56, by the outcomes of a step, each of which keeps the invariant. -/
theorem stepKeepsTheInvariant : Obligations.StepKeepsTheInvariant := by
  intro s t h hstep
  cases StepOutcome.of_step hstep with
  | cycles _ hc => exact h.atStep.cycle hc
  | ticks rest _ eq => exact eq ▸ (h.setScript rest).tick
  | resets image rest _ eq => exact eq ▸ Invariant.resetWith _ image

/-! ### The canonical form of the memory list -/

theorem Machine.CycleOutcome.memoryInForm {s t : State} (houtcome : CycleOutcome s t) (h : MemoryInForm s) : MemoryInForm t := by
  cases houtcome with
  | idles _ eq => exact eq ▸ h
  | endsWait _ _ eq => exact eq ▸ h
  | raises _ _ _ _ eq => exact eq ▸ h
  | waits _ _ _ _ eq => exact eq ▸ h
  | completes _ _ _ _ hc => exact hc.form h

theorem Machine.State.tick_memoryInForm {s : State} (h : MemoryInForm s) : MemoryInForm s.tick := by
  by_cases hhalt : s.mode = .halt
  · rwa [s.tick_of_halt hhalt]
  · rw [s.tick_of_not_halt hhalt]
    exact h

/-- Settles O58: of the outcomes of a step only a completed instruction and a reset write memory, and both leave the canonical form. -/
theorem stepKeepsTheMemoryForm : Obligations.StepKeepsTheMemoryForm := by
  intro s t h hstep
  cases StepOutcome.of_step hstep with
  | cycles _ hc => exact hc.memoryInForm (by rwa [MemoryInForm, atStep_mem])
  | ticks rest _ eq => exact eq ▸ State.tick_memoryInForm (s := s.setScript rest) h
  | resets image rest _ eq => exact eq ▸ imageMemory_wf image

/-- Settles O57: both hold of State.resetWith, whatever the state and the image. -/
theorem resetHasTheInvariant : Obligations.ResetHasTheInvariant := fun s image =>
  ⟨Invariant.resetWith s image, imageMemory_wf image⟩

/-! ### Runs -/

theorem run_succ_of_next {M : Host.Core} {s u : M.State} (h : M.step s = .next u) (k : Nat) : M.run (k + 1) s = M.run k u := by
  simp only [Host.Core.run, h]

/-- A run from a state that has the invariant ends in one that has it. -/
theorem Invariant.run {k : Nat} {s t : State} (h : Invariant s) (hrun : Host.Core.run Sys2Proof.core k s = .next t) :
    Invariant t := by
  induction k generalizing s with
  | zero =>
    cases hrun
    exact h
  | succ k ih =>
    obtain ⟨u, hu⟩ := everyStepAnswersNext s
    exact ih (stepKeepsTheInvariant s u h hu) ((run_succ_of_next (M := Sys2Proof.core) hu k).symm.trans hrun)

/-- Settles O59: a run starts in a reset state (O57), and every step keeps the invariant (O56). -/
theorem everySchedulesStatesHaveTheInvariant : Obligations.EverySchedulesStatesHaveTheInvariant := by
  intro script k t hrun
  have hreset : Invariant (State.reset.resetWith []) := Invariant.resetWith State.reset []
  exact (hreset.setScript script).run hrun

end Sys2Proof
end

section
/-! The register and ALU family (41_alu.md R150 to R162) and ADD I (42_index_memory.md R181): one lemma per shared operation (a write
of one register, a result with its flag, a random draw), and the obligations settled from them. -/

namespace Sys2Proof

open Sys2Proof.Machine

/-- A used free value keeps a frame that exempts the counter. -/
theorem UnchangedExcept.countDraw {regs : List Reg} {parts : List Part} {s t : State} (h : UnchangedExcept regs parts s t)
    (hd : Part.draws ∈ parts) : UnchangedExcept regs parts s t.countDraw :=
  { h with draws := fun hn => absurd hd hn }

namespace Machine

/-! ### A write of one register, and a result with its flag -/

theorem State.advance_setReg_reg (s : State) (x : Reg) (b : RegVal) : (s.setReg x b).advance.reg x = b :=
  s.setReg_reg_same x b

theorem State.unchangedExcept_advance_setReg (s : State) (x : Reg) (b : RegVal) :
    UnchangedExcept [x] [] s (s.setReg x b).advance :=
  ((UnchangedExcept.refl [x] [] s).setReg List.mem_cons_self b).setPc _

/-- The flag is written last (41_alu.md R150), so VF holds it whatever x is. -/
theorem State.advance_setResultFlag_vf (s : State) (x : Reg) (b : RegVal) (c : Bool) :
    (s.setResultFlag params x b c).advance.reg VF = flagByte c := by
  rw [State.advance_eq, State.setPc_reg, State.setResultFlag_eq, State.setReg_reg_same]

theorem State.advance_setResultFlag_reg (s : State) (b : RegVal) (c : Bool) {x : Reg} (hx : x ≠ VF) :
    (s.setResultFlag params x b c).advance.reg x = b := by
  rw [State.advance_eq, State.setPc_reg, State.setResultFlag_eq, State.setReg_reg_of_ne _ _ hx, State.setReg_reg_same]

theorem State.unchangedExcept_advance_setResultFlag (s : State) (x : Reg) (b : RegVal) (c : Bool) :
    UnchangedExcept [x, VF] [] s (s.setResultFlag params x b c).advance :=
  (((UnchangedExcept.refl [x, VF] [] s).setReg (by simp) b).setReg (by simp) _).setPc _

/-- With x = 15 the result and the flag go to the same register. -/
theorem State.unchangedExcept_advance_setResultFlag_vf (s : State) (b : RegVal) (c : Bool) :
    UnchangedExcept [VF] [] s (s.setResultFlag params VF b c).advance :=
  (s.unchangedExcept_advance_setResultFlag VF b c).mono (by simp) (List.Subset.refl _)

/-- Settles O29: both loads are one register write and an advance. -/
theorem loadsIntoRegister : Obligations.LoadsIntoRegister :=
  ⟨fun x nn s => ⟨_, rfl, s.advance_setReg_reg x nn, rfl, s.unchangedExcept_advance_setReg x nn⟩,
    fun x y s => ⟨_, rfl, s.advance_setReg_reg x (s.reg y), rfl, s.unchangedExcept_advance_setReg x (s.reg y)⟩⟩

/-- Settles O31: each of the three writes the bitwise result to the destination. -/
theorem logicWritesOnlyTheDestination : Obligations.LogicWritesOnlyTheDestination := by
  refine fun x y s => ⟨⟨_, rfl, fun k => ?_, rfl, s.unchangedExcept_advance_setReg x _⟩,
    ⟨_, rfl, fun k => ?_, rfl, s.unchangedExcept_advance_setReg x _⟩,
    ⟨_, rfl, fun k => ?_, rfl, s.unchangedExcept_advance_setReg x _⟩⟩
  · rw [State.advance_setReg_reg, BitVec.getLsbD_or]
  · rw [State.advance_setReg_reg, BitVec.getLsbD_and]
  · rw [State.advance_setReg_reg, BitVec.getLsbD_xor]

/-! ### The results as numbers -/

/-- A difference of bytes, as a number. -/
theorem regVal_sub_toNat (a b : RegVal) : (a - b).toNat = (a.toNat + 256 - b.toNat) % 256 := by
  have hb := b.isLt
  rw [BitVec.toNat_sub]
  omega

theorem regVal_shiftRight_one_toNat (a : RegVal) : (a >>> 1).toNat = a.toNat / 2 := by
  rw [BitVec.toNat_ushiftRight, Nat.shiftRight_one]

theorem regVal_shiftLeft_one_toNat (a : RegVal) : (a <<< 1).toNat = a.toNat * 2 % 256 := by
  rw [BitVec.toNat_shiftLeft, Nat.shiftLeft_eq, pow_one]

/-- Settles O32: the result is the sum of two bytes, the flag its carry. -/
theorem addRegisterCarries : Obligations.AddRegisterCarries := by
  refine fun x y s hx => ⟨_, rfl, ?_, ?_, rfl, s.unchangedExcept_advance_setResultFlag x _ _⟩
  · rw [State.advance_setResultFlag_reg _ _ _ hx, BitVec.toNat_add]
  · rw [State.advance_setResultFlag_vf, flagByte_carryOut]

/-- Settles O33: SUB and SUBN differ in which operand is taken from which. -/
theorem subtractionsFlagStrictlyGreater : Obligations.SubtractionsFlagStrictlyGreater := by
  refine fun x y s hx => ⟨⟨_, rfl, ?_, ?_, rfl, s.unchangedExcept_advance_setResultFlag x _ _⟩,
    ⟨_, rfl, ?_, ?_, rfl, s.unchangedExcept_advance_setResultFlag x _ _⟩⟩
  · rw [State.advance_setResultFlag_reg _ _ _ hx, regVal_sub_toNat]
  · rw [State.advance_setResultFlag_vf, flagByte_strictlyGreater]
  · rw [State.advance_setResultFlag_reg _ _ _ hx, regVal_sub_toNat]
  · rw [State.advance_setResultFlag_vf, flagByte_strictlyGreater]

/-- Settles O34: SHR halves and SHL doubles, the flag the bit that is lost. -/
theorem shiftsInPlace : Obligations.ShiftsInPlace := by
  refine fun x y s hx => ⟨⟨_, rfl, ?_, ?_, rfl, s.unchangedExcept_advance_setResultFlag x _ _⟩,
    ⟨_, rfl, ?_, ?_, rfl, s.unchangedExcept_advance_setResultFlag x _ _⟩⟩
  · rw [State.advance_setResultFlag_reg _ _ _ hx, regVal_shiftRight_one_toNat]
  · rw [State.advance_setResultFlag_vf, flagByte_lowBit]
  · rw [State.advance_setResultFlag_reg _ _ _ hx, regVal_shiftLeft_one_toNat]
  · rw [State.advance_setResultFlag_vf, flagByte_highBit]

/-- Settles O35: the flag is written last, so VF holds it. -/
theorem flagWinsInVF : Obligations.FlagWinsInVF := by
  refine fun y s => ⟨⟨_, rfl, ?_, rfl, s.unchangedExcept_advance_setResultFlag_vf _ _⟩,
    ⟨_, rfl, ?_, rfl, s.unchangedExcept_advance_setResultFlag_vf _ _⟩,
    ⟨_, rfl, ?_, rfl, s.unchangedExcept_advance_setResultFlag_vf _ _⟩,
    ⟨_, rfl, ?_, rfl, s.unchangedExcept_advance_setResultFlag_vf _ _⟩,
    ⟨_, rfl, ?_, rfl, s.unchangedExcept_advance_setResultFlag_vf _ _⟩⟩
  · rw [State.advance_setResultFlag_vf, flagByte_carryOut]
  · rw [State.advance_setResultFlag_vf, flagByte_strictlyGreater]
  · rw [State.advance_setResultFlag_vf, flagByte_strictlyGreater]
  · rw [State.advance_setResultFlag_vf, flagByte_lowBit]
  · rw [State.advance_setResultFlag_vf, flagByte_highBit]

/-- Settles O36: the draw is folded into 0 to nn, whatever the free value is. -/
theorem randomStaysWithinBound : Obligations.RandomStaysWithinBound := by
  refine fun x nn s => ⟨(s.setReg x (s.draw nn)).countDraw.advance, rfl, ?_, rfl, ?_⟩
  · rw [State.advance_eq, State.setPc_reg, State.countDraw_reg, State.setReg_reg_same]
    exact s.draw_le nn
  · exact (((UnchangedExcept.refl [x] [.draws] s).setReg List.mem_cons_self _).countDraw List.mem_cons_self).setPc _

/-! ### ADD I -/

/-- What ADD I leaves: the sum in I, the flag of the unwrapped sum in VF. -/
def State.addedIndex (s : State) (x : Reg) : State :=
  ((s.setI (s.i + byteWord (s.reg x))).setFlag (indexOverflow params s.i (s.reg x))).advance

theorem exec_addI (s : State) (x : Reg) : exec (.addI x) s = .next (s.addedIndex x) := rfl

theorem State.addedIndex_i_toNat (s : State) (x : Reg) : (s.addedIndex x).i.toNat = (s.i.toNat + (s.reg x).toNat) % 65536 := by
  show (s.i + byteWord (s.reg x)).toNat = _
  rw [BitVec.toNat_add, byteWord_toNat]

theorem State.addedIndex_vf (s : State) (x : Reg) :
    (s.addedIndex x).reg VF = if 0x1000 ≤ s.i.toNat + (s.reg x).toNat then 1 else 0 := by
  rw [State.addedIndex, State.advance_eq, State.setPc_reg, State.setFlag_eq, State.setReg_reg_same, flagByte_indexOverflow]

theorem State.unchangedExcept_addedIndex (s : State) (x : Reg) : UnchangedExcept [VF] [.index] s (s.addedIndex x) :=
  (((UnchangedExcept.refl [VF] [.index] s).setI List.mem_cons_self _).setReg List.mem_cons_self _).setPc _

/-- Settles O38: a sum that fits is not reduced. -/
theorem addIndexFlagsOutOfRange : Obligations.AddIndexFlagsOutOfRange := by
  refine fun x s hfits => ⟨_, exec_addI s x, ?_, s.addedIndex_vf x, rfl, s.unchangedExcept_addedIndex x⟩
  rw [State.addedIndex_i_toNat, Nat.mod_eq_of_lt hfits]

/-- Settles O39: a sum that does not fit is less than twice 65536, and reaches the limit of the flag. -/
theorem addIndexWraps : Obligations.AddIndexWraps := by
  refine fun x s hwraps => ⟨_, exec_addI s x, ?_, ?_, rfl, s.unchangedExcept_addedIndex x⟩
  · have hi := s.i.isLt
    have hx := (s.reg x).isLt
    rw [State.addedIndex_i_toNat]
    omega
  · rw [State.addedIndex_vf, if_pos (by omega)]

/-! ### CALL and RET -/

/-- Settles O27: RET pops the slot that CALL pushed, and no other slot has changed. -/
theorem callThenRetReturns : Obligations.CallThenRetReturns := by
  intro nnn s t hroom hcall
  rw [exec_call_of_room nnn hroom] at hcall
  cases hcall
  refine ⟨_, exec_ret_of_occupied (Nat.succ_pos s.sp.val), ?_, Fin.ext (Nat.add_sub_cancel _ 1), fun j hj => ?_, ?_⟩
  · rw [State.setPc_pc, State.setPc_slot, State.push_slot]
    exact if_pos (Nat.add_sub_cancel _ 1)
  · rw [State.setPc_slot, State.pop_slot, State.setPc_slot, State.push_slot, if_neg (by omega)]
  · have hcalled := (s.unchangedExcept_push (s.pc + 2#16) hroom).setPc (addrWord nnn)
    exact { hcalled with stack := fun hn => absurd List.mem_cons_self hn }

end Machine

end Sys2Proof
end

section
/-! The block moves (42_index_memory.md R184, R185): one equation per outcome of LD [I] and LD Vx, [I], what a byte and a register
hold after them, and the obligations settled from both. -/

namespace Sys2Proof.Machine

/-! ### LD [I] -/

theorem exec_stRegs_of_outside {x : Reg} {s : State} (h : 0xFFF < s.i.toNat + x.toNat) :
    exec (.stRegs x) s = .next (s.raise .memoryRange (BitVec.ofNat 16 (max s.i.toNat 0x1000))) :=
  congrArg _ (State.checked_of_outside s (count := blockSize x) (Nat.succ_pos _) (by rw [State.effAddr_eq, blockSize]; omega) _)

theorem exec_stRegs_of_inside {x : Reg} {s : State} (h : s.i.toNat + x.toNat ≤ 0xFFF) :
    exec (.stRegs x) s = .next ((s.storeBytes s.i.toNat (s.block x)).setPc (s.pc + 2#16)) :=
  congrArg _ (State.checked_of_inside s (.inr (by rw [State.effAddr_eq, blockSize]; omega)) _)

/-- Each register of the block reads back from its address. -/
theorem State.storeBlock_byte (s : State) {x k : Reg} (hk : k.toNat ≤ x.toNat) :
    (s.storeBytes s.i.toNat (s.block x)).byte (s.i.toNat + k.toNat) = s.reg k := by
  rw [s.storeBytes_byte_add _ (by rw [State.block_length]; omega), State.block_getD s x k hk]

/-- Settles O41, by the two outcomes of LD [I]. -/
theorem storeRegisterBlock : Obligations.StoreRegisterBlock := by
  refine fun x s => ⟨fun houtside => ?_, fun hinside => ?_⟩
  · exact ⟨_, exec_stRegs_of_outside houtside, s.raise_only _ _⟩
  · refine ⟨_, exec_stRegs_of_inside hinside, fun k hk => s.storeBlock_byte hk, fun a ha => ?_, rfl, ?_⟩
    · exact s.storeBytes_byte_of_outside (by rw [State.block_length]; omega)
    · exact ((UnchangedExcept.refl [] [.memory] s).storeBytes List.mem_cons_self _ _).setPc _

/-- Settles O44: both bytes of the fetched word are bytes of the block. -/
theorem storeSeenByNextFetch : Obligations.StoreSeenByNextFetch := by
  intro x k s t hk hinside hstore hpc
  rw [exec_stRegs_of_inside hinside] at hstore
  cases hstore
  have hnext : (k + 1).toNat = k.toNat + 1 := by
    have := x.isLt
    rw [BitVec.toNat_add, show (1 : Reg).toNat = 1 from rfl]
    omega
  rw [State.fetchWord_eq, hpc, State.setPc_byte, State.setPc_byte, Nat.add_assoc, ← hnext, s.storeBlock_byte (by omega),
    s.storeBlock_byte (by omega)]
  rfl

/-! ### LD Vx, [I] -/

theorem exec_ldRegs_of_outside {x : Reg} {s : State} (h : 0xFFF < s.i.toNat + x.toNat) :
    exec (.ldRegs x) s = .next (s.raise .memoryRange (BitVec.ofNat 16 (max s.i.toNat 0x1000))) :=
  congrArg _ (State.checked_of_outside s (count := blockSize x) (Nat.succ_pos _) (by rw [State.effAddr_eq, blockSize]; omega) _)

theorem exec_ldRegs_of_inside {x : Reg} {s : State} (h : s.i.toNat + x.toNat ≤ 0xFFF) :
    exec (.ldRegs x) s = .next (s.loadBlock 0 (blockSize x)).advance :=
  congrArg _ (State.checked_of_inside s (.inr (by rw [State.effAddr_eq, blockSize]; omega)) _)

/-- What a register holds after the block V0 to Vx has been loaded. -/
theorem State.loadBlock_blockSize_reg (s : State) (x r : Reg) :
    (s.loadBlock 0 (blockSize x)).reg r = if r.toNat ≤ x.toNat then s.byte (s.i.toNat + r.toNat) else s.reg r := by
  have hx := x.isLt
  rw [State.loadBlock_reg _ _ _ (by rw [blockSize]; omega)]
  refine if_congr ?_ rfl rfl
  rw [blockSize]
  omega

theorem mem_writtenRegs_ldRegs {x r : Reg} : r ∈ writtenRegs (.ldRegs x) ↔ r.toNat ≤ x.toNat := by
  simp only [writtenRegs, List.mem_map, List.mem_range]
  constructor
  · rintro ⟨k, hk, rfl⟩
    rw [BitVec.toNat_ofNat]
    omega
  · exact fun h => ⟨r.toNat, by omega, by simp⟩

/-- A load of a block writes its registers and PC. -/
theorem State.unchangedExcept_loadBlock (s : State) (x : Reg) :
    UnchangedExcept (writtenRegs (.ldRegs x)) [] s (s.loadBlock 0 (blockSize x)) := by
  have hreg := s.loadBlock_blockSize_reg x
  obtain ⟨v, hv⟩ := s.loadBlock_eq 0 (blockSize x)
  rw [hv] at hreg ⊢
  refine { UnchangedExcept.refl (writtenRegs (.ldRegs x)) [] s with reg := fun r hr => ?_ }
  rw [hreg, if_neg (mt mem_writtenRegs_ldRegs.mpr hr)]

theorem State.loadBlock_pc (s : State) (k n : Nat) : (s.loadBlock k n).pc = s.pc := by
  obtain ⟨v, hv⟩ := s.loadBlock_eq k n
  rw [hv]

/-- Settles O42, by the two outcomes of LD Vx, [I]. -/
theorem loadRegisterBlock : Obligations.LoadRegisterBlock := by
  refine fun x s => ⟨fun houtside => ?_, fun hinside => ?_⟩
  · exact ⟨_, exec_ldRegs_of_outside houtside, s.raise_only _ _⟩
  · refine ⟨_, exec_ldRegs_of_inside hinside, fun k hk => ?_, fun k hk => ?_, ?_, (s.unchangedExcept_loadBlock x).setPc _⟩
    · rw [State.advance_eq, State.setPc_reg, State.loadBlock_blockSize_reg, if_pos hk]
    · rw [State.advance_eq, State.setPc_reg, State.loadBlock_blockSize_reg, if_neg (by omega)]
    · rw [State.advance_eq, State.setPc_pc, State.loadBlock_pc]

/-- Settles O43: each register is loaded from the byte it was stored to (O41, O42). -/
theorem storeThenLoadRestores : Obligations.StoreThenLoadRestores := by
  intro x s t u hinside hstore hmem hi
  obtain ⟨t', ht', hstored, -, -, hframe⟩ := (storeRegisterBlock x s).2 hinside
  obtain rfl : t' = t := by simpa [ht'] using hstore
  have hiu : u.i = s.i := hi.trans (hframe.index (by simp))
  obtain ⟨w, hw, hloaded, -⟩ := (loadRegisterBlock x u).2 (by rwa [hiu])
  refine ⟨w, hw, fun k hk => ?_⟩
  rw [hloaded k hk, hmem, hiu, hstored k hk]

end Sys2Proof.Machine
end

section
/-! The sprite blitter (43_display.md R202, R203, R205): one equation per outcome of DRW, the pixels and the flag it leaves, and the
obligations settled from them. -/

namespace Sys2Proof.Machine

theorem exec_drw_of_outside {x y : Reg} {n : Nibble} {s : State} (hn : 0 < n.toNat) (h : 0xFFF < s.i.toNat + n.toNat - 1) :
    exec (.drw x y n) s = .next (s.raise .memoryRange (BitVec.ofNat 16 (max s.i.toNat 0x1000))) :=
  congrArg _ (State.checked_of_outside s hn (by rw [State.effAddr_eq]; omega) _)

theorem exec_drw_of_inside {x y : Reg} {n : Nibble} {s : State} (h : n.toNat = 0 ∨ s.i.toNat + n.toNat - 1 ≤ 0xFFF) :
    exec (.drw x y n) s = .next (s.putCanvas (s.drawSprite (s.reg x) (s.reg y) n.toNat)).advance :=
  congrArg _ (State.checked_of_inside s (by rw [State.effAddr_eq]; omega) _)

section

variable (s : State) (cx cy : Byte) {n : Nat} (hn : n ≤ 32)

include hn

/-- A drawn sprite toggles the pixels that its set bits address. -/
theorem State.putCanvas_drawSprite_pixel (r : Row) (c : Col) :
    (s.putCanvas (s.drawSprite cx cy n)).pixel r c = (s.pixel r c ^^ s.inSprite cx cy n r c) := by
  rw [State.putCanvas_eq, State.setReg_pixel, State.setFb_pixel, (s.drawSprite_spec cx cy n hn).1]

/-- VF says whether one of them was foreground. -/
theorem State.putCanvas_drawSprite_vf :
    (s.putCanvas (s.drawSprite cx cy n)).reg VF =
      flagByte (decide (∃ r c, s.inSprite cx cy n r c = true ∧ s.pixel r c = true)) := by
  rw [State.putCanvas_eq, State.setReg_reg_same, (s.drawSprite_spec cx cy n hn).2]

end

theorem State.unchangedExcept_putCanvas (s : State) (p : Canvas) : UnchangedExcept [VF] [.display] s (s.putCanvas p) :=
  ((UnchangedExcept.refl [VF] [.display] s).setFb List.mem_cons_self _).setReg List.mem_cons_self _

/-- Settles O46, by the two outcomes of DRW: the sprite's pixels and the collision, as the set of R203. -/
theorem drawTogglesTheSprite : Obligations.DrawTogglesTheSprite := by
  refine fun x y n s => ⟨fun hn houtside => ?_, fun hinside => ?_⟩
  · exact ⟨_, exec_drw_of_outside hn houtside, s.raise_only _ _⟩
  · have hn : n.toNat ≤ 32 := by
      have := n.isLt
      omega
    have hpixel := s.putCanvas_drawSprite_pixel (s.reg x) (s.reg y) hn
    have hflag := s.putCanvas_drawSprite_vf (s.reg x) (s.reg y) hn
    refine ⟨_, exec_drw_of_inside hinside, fun r c hin => ?_, fun r c hout => ?_, fun hhit => ?_, fun hmiss => ?_, rfl,
      (s.unchangedExcept_putCanvas _).setPc _⟩
    · rw [State.advance_eq, State.setPc_pixel, hpixel, (s.inSprite_iff _ _ _ r c).mpr hin, Bool.xor_true]
    · rw [State.advance_eq, State.setPc_pixel, hpixel, Bool.eq_false_iff.mpr (mt (s.inSprite_iff _ _ _ r c).mp hout),
        Bool.xor_false]
    · obtain ⟨r, c, hin, hpix⟩ := hhit
      rw [State.advance_eq, State.setPc_reg, hflag, decide_eq_true ⟨r, c, (s.inSprite_iff _ _ _ r c).mpr hin, hpix⟩]
      rfl
    · rw [State.advance_eq, State.setPc_reg, hflag, decide_eq_false]
      · rfl
      · rintro ⟨r, c, hin, hpix⟩
        simp [hmiss r c ((s.inSprite_iff _ _ _ r c).mp hin)] at hpix

/-- Settles O47, from O46 twice: origins, I and memory are as before the first draw, so the second one toggles the same pixels. -/
theorem drawTwiceRestores : Obligations.DrawTwiceRestores := by
  intro x y n s t u hx hy hinside hfirst hsecond
  obtain ⟨t', ht', hon, hoff, -, -, -, hframe⟩ := (drawTogglesTheSprite x y n s).2 hinside
  obtain rfl : t' = t := by simpa [ht'] using hfirst
  have hi : t'.i = s.i := hframe.index (by simp)
  obtain ⟨u', hu', hon', hoff', hhit, hmiss, -, -⟩ := (drawTogglesTheSprite x y n t').2 (by rwa [hi])
  obtain rfl : u' = u := by simpa [hu'] using hsecond
  have hsprite : ∀ r c, InSprite t' (t'.reg x) (t'.reg y) n.toNat r c ↔ InSprite s (s.reg x) (s.reg y) n.toNat r c := by
    intro r c
    simp only [InSprite, hi, hframe.memory (by simp), hframe.reg x (by simpa using hx), hframe.reg y (by simpa using hy)]
  simp only [hsprite] at hon' hoff' hhit hmiss
  refine ⟨fun r c => ?_, fun hvf => ?_, fun ⟨r, c, hbefore, hafter⟩ => hhit ⟨r, c, ?_, hafter⟩⟩
  · by_cases hin : InSprite s (s.reg x) (s.reg y) n.toNat r c
    · rw [hon' r c hin, hon r c hin, Bool.not_not]
    · rw [hoff' r c hin, hoff r c hin]
  · by_contra hnone
    have hzero : u'.reg VF = 0 := hmiss fun r c hin => by
      by_contra hpix
      have hafter : t'.pixel r c = true := by simpa using hpix
      exact hnone ⟨r, c, by simpa [hon r c hin] using hafter, hafter⟩
    exact absurd (hvf.symm.trans hzero) (by decide)
  · by_contra hout
    simp [hoff r c hout, hbefore] at hafter

end Sys2Proof.Machine
end

section
/-! The keypad (44_keypad_timers.md R221 to R223): one equation per outcome of SKP, SKNP and LD Vx, K, and the obligations settled
from them. -/

namespace Sys2Proof.Machine

/-! ### SKP and SKNP -/

/-- A register value that names a key tests that key's level. -/
theorem State.skipOnKey_of_le {s : State} {x : Reg} (h : (s.reg x).toNat ≤ 15) (level : Bool) :
    s.skipOnKey params x level = s.skipIf (s.keys.getLsbD (s.reg x).toNat == level) := by
  have hkey : ((s.reg x).extractLsb' 0 4).toNat = (s.reg x).toNat := by
    rw [BitVec.extractLsb'_toNat]
    omega
  rw [State.skipOnKey, keyIndex_of_le h, ← hkey]
  rfl

theorem byteWord_eq_ofNat (b : Byte) : byteWord b = BitVec.ofNat 16 b.toNat := by
  have hb := b.isLt
  apply BitVec.eq_of_toNat_eq
  rw [byteWord_toNat, BitVec.toNat_ofNat]
  omega

/-- A register value that names none raises, with the value as info. -/
theorem State.skipOnKey_of_gt {s : State} {x : Reg} (h : 15 < (s.reg x).toNat) (level : Bool) :
    s.skipOnKey params x level = s.raise .keyIndexRange (BitVec.ofNat 16 (s.reg x).toNat) := by
  rw [State.skipOnKey, keyIndex_of_gt h, ← byteWord_eq_ofNat]

theorem exec_skp (x : Reg) (s : State) : exec (.skp x) s = .next (s.skipOnKey params x true) := rfl

theorem exec_sknp (x : Reg) (s : State) : exec (.sknp x) s = .next (s.skipOnKey params x false) := rfl

/-- Settles O48: both are a conditional skip on the level of the key named. -/
theorem keySkipsTestTheLevel : Obligations.KeySkipsTestTheLevel := by
  intro x s hkey
  rw [exec_skp, exec_sknp, State.skipOnKey_of_le hkey, State.skipOnKey_of_le hkey]
  refine ⟨⟨_, rfl, ?_, s.unchangedExcept_skipIf _⟩, ⟨_, rfl, ?_, s.unchangedExcept_skipIf _⟩⟩
  all_goals
    rw [State.skipIf_eq, State.setPc_pc]
    cases s.keys.getLsbD (s.reg x).toNat <;> rfl

/-- Settles O49: neither finds a key. -/
theorem keyIndexAboveFifteenRaises : Obligations.KeyIndexAboveFifteenRaises := by
  intro x s hkey
  rw [exec_skp, exec_sknp, State.skipOnKey_of_gt hkey, State.skipOnKey_of_gt hkey]
  exact ⟨⟨_, rfl, s.raise_only _ _⟩, ⟨_, rfl, s.raise_only _ _⟩⟩

/-! ### LD Vx, K -/

theorem exec_ldVxK_of_key (x : Reg) {s : State} (hkeys : s.keys ≠ 0) :
    exec (.ldVxK x) s = .next ((s.setReg x (s.pickKey params)).setPc (s.pc + 2#16)) := if_neg hkeys

theorem exec_ldVxK_of_noKey (x : Reg) {s : State} (hkeys : s.keys = 0) :
    exec (.ldVxK x) s = .next ((s.setMode .waitKey).setWaitReg x) := if_pos hkeys

/-- Settles O50: with a key down the pick is one that is down, and with none down the wait is entered. -/
theorem keyWaitCompletesOrWaits : Obligations.KeyWaitCompletesOrWaits := by
  refine fun x s => ⟨fun hkeys => ?_, fun hkeys => ?_⟩
  · obtain ⟨k, hdown, -, hpick⟩ := s.pickKey_lowest hkeys
    refine ⟨_, k, exec_ldVxK_of_key x hkeys, hdown, ?_, rfl, ?_⟩
    · rw [State.setPc_reg, State.setReg_reg_same, hpick]
    · exact ((UnchangedExcept.refl [x] [] s).setReg List.mem_cons_self _).setPc _
  · refine ⟨_, exec_ldVxK_of_noKey x hkeys, rfl, rfl, rfl, ?_⟩
    exact ((UnchangedExcept.refl [] [.mode, .waitReg] s).setMode (by simp) _).setWaitReg (by simp) _

/-- The pick is the key that is down with none down below it. -/
theorem State.pickKey_eq {s : State} {k : Nat} (hdown : s.keys.getLsbD k = true) (hlowest : ∀ j, j < k → s.keys.getLsbD j = false) :
    s.pickKey params = BitVec.ofNat 8 k := by
  have hkeys : s.keys ≠ 0 := fun h => by simp [h] at hdown
  obtain ⟨k', hdown', hlowest', hpick⟩ := s.pickKey_lowest hkeys
  obtain hlt | rfl | hgt := Nat.lt_trichotomy k k'
  · cases hdown.symm.trans (hlowest' k hlt)
  · exact hpick
  · cases hdown'.symm.trans (hlowest k' hgt)

/-- Settles O51: with a key down LD Vx, K completes with the pick. -/
theorem lowestKeyIsReported : Obligations.LowestKeyIsReported := by
  intro x s k hdown hlowest
  have hkeys : s.keys ≠ 0 := fun h => by simp [h] at hdown
  refine ⟨_, exec_ldVxK_of_key x hkeys, ?_⟩
  rw [State.setPc_reg, State.setReg_reg_same, State.pickKey_eq hdown hlowest]

end Sys2Proof.Machine
end

section
/-! The whole instruction set (10_state.md R23, R40, 40_cycle_control.md R122): what every instruction keeps, from the three ways in
which one can end, and the flag of those that write it. -/

namespace Sys2Proof.Machine

theorem ExecOutcome.of_exec {i : Instr} {s t : State} (h : exec i s = .next t) : ExecOutcome i s t := by
  obtain ⟨u, hu, houtcome⟩ := exec_outcome i s
  obtain rfl : u = t := by simpa [hu] using h
  exact houtcome

/-- Settles O53: a fault entry and the start of a wait are within the instruction's parts, and what completes is within its frame. -/
theorem everyInstructionKeepsItsFrame : Obligations.EveryInstructionKeepsItsFrame := by
  intro i s t hexec
  cases ExecOutcome.of_exec hexec with
  | completes h => exact ⟨h.frame, h.outside⟩
  | raises cause info _ _ allowed eq =>
    obtain ⟨hmode, hrecord⟩ := allowed
    obtain ⟨-, -, -, -, -, hrest⟩ := s.raise_only cause info
    subst eq
    exact ⟨hrest.mono (List.nil_subset _) (by simp [hmode, hrecord]), fun _ _ => rfl⟩
  | waits x instr _ eq =>
    subst instr eq
    refine ⟨UnchangedExcept.setWaitReg (.setMode (.refl _ _ s) ?_ _) ?_ _, fun _ _ => rfl⟩ <;> simp [writtenParts]

/-- Settles O54: what neither raises nor waits completes, with PC as the table says. -/
theorem pcEffectsAsTheTableSays : Obligations.PcEffectsAsTheTableSays := by
  intro i s t _ hexec running
  cases ExecOutcome.of_exec hexec with
  | completes h => exact h.pc
  | raises _ _ _ _ _ eq => simp [eq] at running
  | waits _ _ _ eq => simp [eq] at running

/-! ### The flag -/

/-- An instruction that ends in a result with its flag leaves 0 or 1 in VF. -/
theorem vf_cases_of_setResultFlag {s t : State} {x : Reg} {b : RegVal} {c : Bool}
    (h : (.next (s.setResultFlag params x b c).advance : Result) = .next t) : t.reg VF = 0 ∨ t.reg VF = 1 := by
  cases h
  rw [State.advance_setResultFlag_vf]
  exact flagByte_cases c

/-- ADD I leaves 0 or 1 in VF. -/
theorem exec_addI_vf_cases {x : Reg} {s t : State} (h : exec (.addI x) s = .next t) : t.reg VF = 0 ∨ t.reg VF = 1 := by
  rw [exec_addI] at h
  cases h
  rw [State.addedIndex_vf]
  split
  · exact .inr rfl
  · exact .inl rfl

/-- DRW either raises or leaves 0 or 1 in VF. -/
theorem exec_drw_vf_cases {x y : Reg} {n : Nibble} {s t : State} (h : exec (.drw x y n) s = .next t) (hgood : t.mode ≠ .halt) :
    t.reg VF = 0 ∨ t.reg VF = 1 := by
  by_cases hinside : n.toNat = 0 ∨ s.i.toNat + n.toNat - 1 ≤ 0xFFF
  · rw [exec_drw_of_inside hinside] at h
    cases h
    rw [State.advance_eq, State.setPc_reg, State.putCanvas_eq, State.setReg_reg_same]
    exact flagByte_cases _
  · rw [exec_drw_of_outside (by omega) (by omega)] at h
    cases h
    exact absurd (s.raise_mode _ _) hgood

/-- Settles O55, by the three forms in which an instruction writes the flag: the ALU's five, ADD I and DRW. -/
theorem flagIsZeroOrOne : Obligations.FlagIsZeroOrOne := by
  rintro i s t hexec - hgood ⟨x, y, rfl | rfl | rfl | rfl | rfl | rfl | ⟨n, rfl⟩⟩
  · exact vf_cases_of_setResultFlag hexec
  · exact vf_cases_of_setResultFlag hexec
  · exact vf_cases_of_setResultFlag hexec
  · exact vf_cases_of_setResultFlag hexec
  · exact vf_cases_of_setResultFlag hexec
  · exact exec_addI_vf_cases hexec
  · exact exec_drw_vf_cases hexec hgood

end Sys2Proof.Machine
end
